-- ==== Sys2Proof/Word.lean ====
section
/-!
DEFINITION. The words of the five interfaces and the plain data that travels with them: addresses and bytes, the
states of the external primitives, framebuffers, snapshot records and images, event-queue entries and host commands.
-/
namespace Sys2Proof

/-- One bus datum (20_memory R80: 8-bit data). -/
abbrev Byte := BitVec 8

/-- One bus address, the same width in both spaces (20_memory R80). -/
abbrev Addr := BitVec 16

/-- A byte string whose meaning belongs to an external primitive. -/
abbrev Blob := List Byte

/-- A pixel code, "palette indices or RGB values" (00_scope R7: `Pixel` is OPEN). DESIGN CHOICE, safe: the block only
carries pixels, so any numbering of them does (log 26). -/
abbrev Pixel := Nat

/-- The two address spaces (20_memory R80). -/
inductive Space where
  | cpu
  | ppu
  deriving DecidableEq, Repr, Inhabited

/-- RATIO.REGION (10_state R24). -/
inductive Region where
  | ntsc
  | pal
  deriving DecidableEq, Repr, Inhabited

/-- STEP_MODE (10_state R22). -/
inductive StepMode where
  | noStep
  | cycleStep
  | scanlineStep
  | frameStep
  deriving DecidableEq, Repr, Inhabited

/-- The kinds of a pause request that can be acknowledged (30_encoding R105); the quit sentinel stands apart. -/
inductive PauseKind where
  | toggle
  | pause
  | unpause
  deriving DecidableEq, Repr, Inhabited

/-- The three agents (60_exceptions R322). -/
inductive Agent where
  | scheduler
  | consumer
  | host
  deriving DecidableEq, Repr, Inhabited

/-- A completed framebuffer, row by row (10_state R38). -/
structure Framebuffer where
  rows : List (List Pixel)
  deriving DecidableEq, Repr, Inhabited

/-- `cpu_state` (10_state R45). The block reads none of these fields. PRESUMED, safe: the widths are the 6502's as the
spec recalls them; `rest` holds whatever else the primitive keeps (log 7). -/
structure CpuState where
  a : Byte
  x : Byte
  y : Byte
  sp : Byte
  p : Byte
  pc : Addr
  cycle : Nat
  apu : Blob
  rest : Blob
  deriving DecidableEq, Repr, Inhabited

/-- `ppu_state` (10_state R46), the PPU-register device's state included (R48). The block reads `scanline` alone, which is
`PpuScanline` (41_interrupt_controller R154; DEDUCED, safe, log 8). -/
structure PpuState where
  regs : Blob
  oam : Blob
  nametable : Blob
  scanline : BitVec 16
  cycle : Nat
  frame : Nat
  rest : Blob
  deriving DecidableEq, Repr, Inhabited

/-- `mapper_state` (10_state R47): "private state and banking registers". -/
structure MapperState where
  priv : Blob
  banks : Blob
  deriving DecidableEq, Repr, Inhabited

/-- `dev_state[d]` of the devices that are inside neither `ppu_state` nor `mapper_state` (10_state R48), sorted by device
identifier, an empty byte string not listed (log 10). -/
abbrev DevStore := List (Nat × Blob)

/-- `SnapRecord` (45_snapshot R260). -/
structure SnapRecord where
  cpu : CpuState
  ppu : PpuState
  mapper : MapperState
  ctrl0 : Byte
  ctrl1 : Byte
  dev : DevStore
  quota : BitVec 32
  stepMode : StepMode
  drainPending : BitVec 16
  cpuCyc : BitVec 64
  ppuCyc : BitVec 64
  frameSeq : BitVec 28
  nmiLatch : Bool
  nmiPrev : Bool
  openBusCpu : Byte
  openBusPpu : Byte
  deriving DecidableEq, Repr, Inhabited

/-- The `state` entry of an archive: bytes that some record encodes to, or any other bytes. DESIGN CHOICE, safe: the codec
is OPEN and its one law is `decode (encode r) = some r` (00_scope R14), so the bytes of a record are named by it (log 13). -/
inductive SnapBytes where
  | encoded (r : SnapRecord)
  | other (raw : Blob)
  deriving DecidableEq, Repr, Inhabited

/-- `Meta` (45_snapshot R261). -/
structure SnapMeta where
  version : String
  deriving DecidableEq, Repr, Inhabited

/-- `Image` (45_snapshot R261). -/
inductive Image where
  | ioError
  | archive (info : Option SnapMeta) (state : Option SnapBytes)
  deriving DecidableEq, Repr, Inhabited

/-- One entry of `EVQ` (10_state R38): an event word and its side data. -/
structure EvEntry where
  word : BitVec 32
  fb : Option Framebuffer
  img : Option Image
  deriving DecidableEq, Repr, Inhabited

/-- One claimed range of a space (10_state R35), both ends inclusive. -/
structure MapEntry where
  lo : Addr
  hi : Addr
  dev : Byte
  deriving DecidableEq, Repr, Inhabited

/-- Where a device's state lives and what resets it (10_state R48, R53; DEDUCED, safe, log 9, log 32). -/
inductive DevKind where
  /-- the PPU-register device: its state is part of `ppu_state` -/
  | ppuRegs
  /-- the mapper: its state is part of `mapper_state` -/
  | mapper
  /-- a controller device: reads `CTRL[0]`, `CTRL[1]` and has its own shift state -/
  | controller
  /-- a device of the CPU package: a state of its own, which `CpuReset` changes (R53: "except as `CpuReset`/`PpuReset` change
  their own devices") -/
  | cpuOwned
  /-- any other device: a state of its own -/
  | plain
  deriving DecidableEq, Repr, Inhabited

/-- What the host does in one of its steps (46_lifecycle; 44_events R237). -/
inductive HostCmd where
  /-- one 64-bit control word on the CTL port -/
  | ctl (c : BitVec 64)
  /-- one push on the event port; the host may attach `img` to any word -/
  | push (w : BitVec 32) (img : Option Image)
  deriving DecidableEq, Repr, Inhabited

end Sys2Proof
end

