-- ==== Sys2Proof/Config.lean ====
section
/-!
DEFINITION. What the spec leaves OPEN (00_scope R7, 92_eei_decisions): the external primitives, the power-on draws and
the platform. Every OPEN value is an opaque constant with no body, so nothing proved of the model rests on one.
-/
namespace Sys2Proof

/-- A primitive call as an interaction over the bus (40_bus R136): a finite sequence of byte transactions, each chosen
from the data of the earlier reads, and then a result. -/
inductive BusProg (α : Type) where
  | done (a : α)
  | read (addr : Addr) (k : Byte → BusProg α)
  | write (addr : Addr) (v : Byte) (k : BusProg α)
  deriving Inhabited

/-- The fatal errors of a CPU step (41_interrupt_controller R150). -/
inductive CpuErr where
  | unsupportedOpcode
  | busFault
  deriving DecidableEq, Repr, Inhabited

/-- What `CpuStep` returns (R150). -/
structure CpuResult where
  cycles : BitVec 16
  nmiTaken : Bool
  err : Option CpuErr
  cpu : CpuState
  deriving DecidableEq, Repr, Inhabited

/-- What `ApuSample` returns (R151). -/
structure ApuResult where
  sample : BitVec 16
  produced : Bool
  cpu : CpuState
  deriving DecidableEq, Repr, Inhabited

/-- What `PpuStep` returns (R153). A completed frame is given pixel by pixel (column, row), so that it has the platform's
dimensions whatever the primitive does (log 26). -/
structure PpuResult where
  fb : Option (Nat → Nat → Pixel)
  nmiLevel : Bool
  ppu : PpuState
  deriving Inhabited

/-! ## Primitives (41_interrupt_controller; log 6) -/

/-- `CpuStep(cpu_state, nmi_pending, irq_line)` (R150). -/
opaque Config.cpuStep : CpuState → Bool → Bool → BusProg CpuResult
/-- `ApuSample` (R151): no bus transaction. -/
opaque Config.apuSample : CpuState → ApuResult
/-- `CpuReset` (R152): no bus transaction. -/
opaque Config.cpuReset : CpuState → CpuState
/-- What `CpuReset` makes of the state of a device of its own (10_state R53), from the primitive states before the reset
(70_reset_and_hazards R330; DEDUCED, safe, log 32). -/
opaque Config.cpuResetDev : Byte → CpuState → Blob → Blob
/-- `PpuStep` (R153). -/
opaque Config.ppuStep : PpuState → BusProg PpuResult
/-- `PpuTrigger` (R155): no side effect. -/
opaque Config.ppuTrigger : PpuState → Bool
/-- `PpuReset` (R156): no bus transaction. -/
opaque Config.ppuReset : PpuState → PpuState
/-- `MapperTick` (R159): no bus transaction. -/
opaque Config.mapperTick : MapperState → MapperState
/-- `MapperIrq` (R160): the mapper's IRQ level. -/
opaque Config.mapperIrq : MapperState → Bool
/-- `BatteryLoad` (46_lifecycle R283). -/
opaque Config.batteryLoad : MapperState → MapperState
/-- `BatteryStore` (46_lifecycle R283). -/
opaque Config.batteryStore : MapperState → Blob

/-! ## Devices (40_bus R130): total, never faulting; one pair per place a device's state lives in (log 9) -/

/-- `DevRead` of a PPU-register device. -/
opaque Config.ppuDevRead : Byte → Space → Addr → PpuState → Byte × PpuState
/-- `DevWrite` of a PPU-register device. -/
opaque Config.ppuDevWrite : Byte → Space → Addr → Byte → PpuState → PpuState
/-- `DevRead` of the mapper. -/
opaque Config.mapperDevRead : Byte → Space → Addr → MapperState → Byte × MapperState
/-- `DevWrite` of the mapper. -/
opaque Config.mapperDevWrite : Byte → Space → Addr → Byte → MapperState → MapperState
/-- `DevRead` of a controller device: it sees both latches and its own shift state. -/
opaque Config.ctrlDevRead : Byte → Space → Addr → (ctrl0 ctrl1 : Byte) → Blob → Byte × Blob
/-- `DevRead` of any other device. -/
opaque Config.devRead : Byte → Space → Addr → Blob → Byte × Blob
/-- `DevWrite` of a controller device (which sees its own state alone: `DevRead` is the reader of the latches, 10_state R37) and
of any other device. -/
opaque Config.devWrite : Byte → Space → Addr → Byte → Blob → Blob

/-! ## Power-on draws (10_state R53; log 11) -/

/-- `OPEN_BUS_INIT`, an unconstrained draw per space (10_state R36). -/
opaque Config.openBusInit : Space → Byte
/-- The CPU primitive's power-on state. -/
opaque Config.cpuPowerOn : CpuState
/-- The PPU primitive's power-on state. -/
opaque Config.ppuPowerOn : PpuState
/-- The mapper's state fresh from the ROM. -/
opaque Config.mapperPowerOn : MapperState
/-- The devices' power-on states. -/
opaque Config.devicePowerOn : Byte → Blob

/-! ## Platform (00_scope R7; log 12, log 19, log 30). The target rates are frames a second as exact rationals: the spec gives
them no type, and its examples are 60.0988 and 50.007 (DESIGN CHOICE, safe, log 19). -/

/-- `DeviceSet`, each device with the place its state lives in. -/
opaque Config.devices : List (Byte × DevKind)
/-- `FB_W`. -/
opaque Config.fbW : Nat
/-- `FB_H`. -/
opaque Config.fbH : Nat
/-- `DefaultMap` (20_memory R88): the ranges the host claims at construction. -/
opaque Config.defaultMap : List (Space × MapEntry)
/-- `TARGET_FPS_NTSC` (42_scheduler R180): no rule depends on it. -/
opaque Config.targetFpsNtsc : Rat
/-- `TARGET_FPS_PAL` (42_scheduler R180): no rule depends on it. -/
opaque Config.targetFpsPal : Rat

/-! ## Snapshot codec (00_scope R14; log 13) -/

/-- What `SnapCodec.decode` answers on bytes that are the encoding of no record. -/
opaque Config.decodeOther : Blob → Option SnapRecord

/-! ## Free choices (60_exceptions R314; log 2, log 4) -/

/-- Which agent takes the next step. -/
opaque Config.nextAgent : Nat → Agent
/-- What the host does in a step for which nothing waits at its ports (`none`: nothing). -/
opaque Config.hostInput : Nat → Option HostCmd

/-! ## Fixed parameters (00_scope R7) -/

/-- `Q_DEN`: units of QUOTA per PPU cycle (10_state R23). -/
def Config.qDen : Nat := 5
/-- `DIV_NUM` (10_state R24): 15 for NTSC (3.0 = 15/5), 16 for PAL (3.2 = 16/5). -/
def Config.divNum : Region → Nat
  | .ntsc => 15
  | .pal => 16
/-- `MAP_ENTRIES_MAX` (10_state R35). -/
def Config.mapEntriesMax : Nat := 32
/-- `SNAP_VERSION` (45_snapshot R261). -/
def Config.snapVersion : String := "0.2"
/-- `BLOCK_ID` (10_state R57). -/
def Config.blockId : BitVec 32 := 0x4E545337

end Sys2Proof
end

