-- ==== Sys2Proof/Syntax.lean ====
section
/-!
DEFINITION. The instructions: one constructor per row of spec/opcode_table.json, operands pulled out of their fields, and
the words in which the five interfaces carry them (30_encoding R100).
-/
namespace Sys2Proof

/-- The rows of the opcode table. An event's side data is an operand of it (30_encoding R101). -/
inductive Instr where
  /-- EV.FRAME (44_events R223) -/
  | evFrame (seq : BitVec 28) (fb : Framebuffer)
  /-- EV.SAMPLE (R224) -/
  | evSample (sample : BitVec 16)
  /-- EV.INPUT (R225) -/
  | evInput (port : BitVec 1) (button : BitVec 3) (down : Bool)
  /-- EV.PAUSE (R226) -/
  | evPause (kind : PauseKind) (ack : Bool) (chan : Byte)
  /-- EV.SAVESTATE (R227) -/
  | evSavestate
  /-- EV.LOADSTATE (R228) -/
  | evLoadstate (img : Image)
  /-- EV.QUIT (R229) -/
  | evQuit
  /-- EV.FRAMESTEP (R230) -/
  | evFramestep
  /-- EV.SHOWFPS (R231) -/
  | evShowfps
  /-- EV.SETSTEP (R232) -/
  | evSetstep (mode : StepMode)
  /-- PQ.TOGGLE (43_pause R202) -/
  | pqToggle (ack : Bool) (chan : Byte)
  /-- PQ.PAUSE (R203) -/
  | pqPause (ack : Bool) (chan : Byte)
  /-- PQ.UNPAUSE (R204) -/
  | pqUnpause (ack : Bool) (chan : Byte)
  /-- PQ.QUITSENT (R205) -/
  | pqQuitsent
  /-- CTL.CONFIG (46_lifecycle R280) -/
  | ctlConfig (region : Region) (hasSlc : Bool)
  /-- CTL.MAP_ADD (40_bus R133) -/
  | ctlMapAdd (space : Space) (dev : Byte) (lo hi : Addr)
  /-- CTL.RESET (46_lifecycle R281) -/
  | ctlReset
  /-- CTL.START (R282) -/
  | ctlStart
  /-- CTL.CSR_READ (R284) -/
  | ctlCsrRead (n : BitVec 8)
  /-- CTL.SINK_FATAL (R285) -/
  | ctlSinkFatal
  /-- BUS.RD (40_bus R131); the `wdata` bits of a read are ignored (30_encoding R110) but are part of the word -/
  | busRd (space : Space) (addr : Addr) (wdata : Byte)
  /-- BUS.WR (40_bus R132) -/
  | busWr (space : Space) (addr : Addr) (wdata : Byte)
  /-- SEQ.IDLE (42_scheduler R171) -/
  | seqIdle
  /-- SEQ.TOP (R172) -/
  | seqTop
  /-- SEQ.PPU (R173) -/
  | seqPpu
  /-- SEQ.DRAIN (R174) -/
  | seqDrain
  /-- SEQ.PCHECK (R175) -/
  | seqPcheck
  /-- SEQ.PWAIT (R176) -/
  | seqPwait
  /-- SEQ.EXITCHK (R177) -/
  | seqExitchk
  /-- SEQ.HALT (R178) -/
  | seqHalt
  /-- SEQ.C_IDLE (44_events R221) -/
  | seqCIdle
  /-- SEQ.C_FETCH (R222) -/
  | seqCFetch
  /-- SEQ.C_SAVE_ACK (R234) -/
  | seqCSaveAck
  /-- SEQ.C_LOAD_ACK (R235) -/
  | seqCLoadAck
  /-- SEQ.C_HALT (R236) -/
  | seqCHalt
  deriving DecidableEq, Repr

/-- A word on the interface it arrives on: "the interface a word arrives on determines its format and its length"
(30_encoding R100). -/
inductive Words where
  /-- an event-queue entry, 32 bits and side data -/
  | ev (e : EvEntry)
  /-- a pause word, 16 bits -/
  | pq (q : BitVec 16)
  /-- a control word, 64 bits -/
  | ctl (c : BitVec 64)
  /-- a bus request, 26 bits -/
  | bus (b : BitVec 26)
  /-- the scheduler's sequencer, 4 bits -/
  | sphase (p : BitVec 4)
  /-- the consumer's sequencer, 3 bits -/
  | cphase (p : BitVec 3)
  deriving DecidableEq, Repr

end Sys2Proof
end

