-- ==== Sys2Proof/WellFormed.lean ====
section
/-!
DEFINITION. Which instructions have a word. Every operand but one is as wide as its field; the exception is the pair
`ack`, `chan` of EV.PAUSE, which the encoding ties together (30_encoding R104).
-/
namespace Sys2Proof

/-- "`ack = 1 ⇒ chan ≠ 0`, and `ack = 0 ⇒ chan = 0`" (30_encoding R104). -/
def ackMatchesChan (ack : Bool) (chan : Byte) : Bool := ack == (chan != 0)

/-- An instruction that some legal word stands for. -/
def Instr.wellFormed : Instr → Bool
  | .evPause _ ack chan => ackMatchesChan ack chan
  | .evFrame _ _ | .evSample _ | .evInput _ _ _ | .evSavestate | .evLoadstate _ | .evQuit | .evFramestep | .evShowfps
  | .evSetstep _ | .pqToggle _ _ | .pqPause _ _ | .pqUnpause _ _ | .pqQuitsent | .ctlConfig _ _ | .ctlMapAdd _ _ _ _
  | .ctlReset | .ctlStart | .ctlCsrRead _ | .ctlSinkFatal | .busRd _ _ _ | .busWr _ _ _ | .seqIdle | .seqTop | .seqPpu
  | .seqDrain | .seqPcheck | .seqPwait | .seqExitchk | .seqHalt | .seqCIdle | .seqCFetch | .seqCSaveAck | .seqCLoadAck
  | .seqCHalt => true

end Sys2Proof
end

