-- ==== Sys2Proof/Decode.lean ====
section
/-!
DEFINITION. The decoders of the five interfaces, total on every word, and the encoder, both from the layouts of
30_encoding R103, R105, R107, R110, R111, R112; the pseudo-instructions of R116; the host's view `decodeTableWord`.
-/
namespace Sys2Proof

/-- Why a word is no instruction (30_encoding R114). -/
inductive Illegal where
  /-- a reserved tag or op (R102, R107) -/
  | reservedOp
  /-- a non-zero reserved bit (R103, R105, R107) -/
  | reservedBits
  /-- EV.PAUSE with kind 0b11 (R104) -/
  | pauseKind
  /-- EV.PAUSE with `ack` and `chan` inconsistent (R104) -/
  | ackChan
  /-- side data that does not match the tag (R104) -/
  | sideData
  /-- a reserved sequencer code (R111, R112) -/
  | reservedPhase
  deriving DecidableEq, Repr

/-- What a decoder answers. -/
inductive Decoded where
  | instr (i : Instr)
  | reject (why : Illegal)
  deriving DecidableEq, Repr

/-- The instruction, if the word is one. -/
def Decoded.instr? : Decoded → Option Instr
  | .instr i => some i
  | .reject _ => none

/-! ## Field codes -/

/-- STEP_MODE codes (10_state R22). -/
def stepModeBits : StepMode → BitVec 2
  | .noStep => 0b00
  | .cycleStep => 0b01
  | .scanlineStep => 0b10
  | .frameStep => 0b11

/-- The mode a 2-bit code names: "every value is legal" (10_state R22). -/
def stepModeOf (b : BitVec 2) : StepMode :=
  match b with
  | 0b00#2 => .noStep
  | 0b01#2 => .cycleStep
  | 0b10#2 => .scanlineStep
  | 0b11#2 => .frameStep

/-- Pause-request kinds (30_encoding R105). -/
def pauseKindBits : PauseKind → BitVec 2
  | .toggle => 0b00
  | .pause => 0b01
  | .unpause => 0b10

/-- The kind a 2-bit code names; 0b11 is the quit sentinel's and no kind of a request. -/
def pauseKindOf (b : BitVec 2) : Option PauseKind :=
  match b with
  | 0b00#2 => some .toggle
  | 0b01#2 => some .pause
  | 0b10#2 => some .unpause
  | 0b11#2 => none

/-- RATIO.REGION codes (10_state R24). -/
def regionBit : Region → BitVec 1
  | .ntsc => 0
  | .pal => 1

/-- The region a bit names. -/
def regionOf (b : Bool) : Region := if b then .pal else .ntsc

/-- The space bit of MAP_ADD and BUS words (30_encoding R107, R110). -/
def spaceBit : Space → BitVec 1
  | .cpu => 0
  | .ppu => 1

/-- The space a bit names. -/
def spaceOf (b : Bool) : Space := if b then .ppu else .cpu

/-! ## Decoders -/

/-- An event word that needs no side data (R103). -/
def decodeEvWord (w : BitVec 32) : Decoded :=
  match w.extractLsb' 28 4 with
  | 0x2#4 => if w.extractLsb' 16 12 = 0 then .instr (.evSample (w.extractLsb' 0 16)) else .reject .reservedBits
  | 0x3#4 =>
    if w.extractLsb' 5 23 = 0 then .instr (.evInput (w.extractLsb' 4 1) (w.extractLsb' 1 3) (w.getLsbD 0))
    else .reject .reservedBits
  | 0x4#4 =>
    if w.extractLsb' 16 12 = 0 ∧ w.extractLsb' 3 5 = 0 then
      match pauseKindOf (w.extractLsb' 0 2) with
      | none => .reject .pauseKind
      | some k =>
        if ackMatchesChan (w.getLsbD 2) (w.extractLsb' 8 8) then
          .instr (.evPause k (w.getLsbD 2) (w.extractLsb' 8 8))
        else .reject .ackChan
    else .reject .reservedBits
  | 0x5#4 => if w.extractLsb' 0 28 = 0 then .instr .evSavestate else .reject .reservedBits
  | 0x7#4 => if w.extractLsb' 0 28 = 0 then .instr .evQuit else .reject .reservedBits
  | 0x8#4 => if w.extractLsb' 0 28 = 0 then .instr .evFramestep else .reject .reservedBits
  | 0x9#4 => if w.extractLsb' 0 28 = 0 then .instr .evShowfps else .reject .reservedBits
  | 0xA#4 =>
    if w.extractLsb' 2 26 = 0 then .instr (.evSetstep (stepModeOf (w.extractLsb' 0 2))) else .reject .reservedBits
  | _ => .reject .reservedOp

/-- An event-queue entry, its side data checked against its tag (30_encoding R104): `fb` exactly on FRAME, `img` exactly on
LOADSTATE. -/
def decodeEv (e : EvEntry) : Decoded :=
  match e.fb, e.img with
  | none, none =>
    if e.word.extractLsb' 28 4 = 0x1#4 ∨ e.word.extractLsb' 28 4 = 0x6#4 then .reject .sideData else decodeEvWord e.word
  | some fb, none =>
    if e.word.extractLsb' 28 4 = 0x1#4 then .instr (.evFrame (e.word.extractLsb' 0 28) fb) else .reject .sideData
  | none, some img =>
    if e.word.extractLsb' 28 4 = 0x6#4 then
      if e.word.extractLsb' 0 28 = 0 then .instr (.evLoadstate img) else .reject .reservedBits
    else .reject .sideData
  | some _, some _ => .reject .sideData

/-- A pause word (R105). -/
def decodePq (q : BitVec 16) : Decoded :=
  match pauseKindOf (q.extractLsb' 0 2) with
  | none => if q = 0x0003#16 then .instr .pqQuitsent else .reject .reservedBits
  | some k =>
    if q.extractLsb' 3 5 = 0 then
      match k with
      | .toggle => .instr (.pqToggle (q.getLsbD 2) (q.extractLsb' 8 8))
      | .pause => .instr (.pqPause (q.getLsbD 2) (q.extractLsb' 8 8))
      | .unpause => .instr (.pqUnpause (q.getLsbD 2) (q.extractLsb' 8 8))
    else .reject .reservedBits

/-- A control word (R107). -/
def decodeCtl (c : BitVec 64) : Decoded :=
  match c.extractLsb' 60 4 with
  | 0x1#4 =>
    if c.extractLsb' 2 58 = 0 then .instr (.ctlConfig (regionOf (c.getLsbD 0)) (c.getLsbD 1)) else .reject .reservedBits
  | 0x2#4 =>
    if c.extractLsb' 57 3 = 0 ∧ c.extractLsb' 32 16 = 0 then
      .instr (.ctlMapAdd (spaceOf (c.getLsbD 56)) (c.extractLsb' 48 8) (c.extractLsb' 16 16) (c.extractLsb' 0 16))
    else .reject .reservedBits
  | 0x3#4 => if c.extractLsb' 0 60 = 0 then .instr .ctlReset else .reject .reservedBits
  | 0x4#4 => if c.extractLsb' 0 60 = 0 then .instr .ctlStart else .reject .reservedBits
  | 0x5#4 => if c.extractLsb' 8 52 = 0 then .instr (.ctlCsrRead (c.extractLsb' 0 8)) else .reject .reservedBits
  | 0x6#4 => if c.extractLsb' 0 60 = 0 then .instr .ctlSinkFatal else .reject .reservedBits
  | _ => .reject .reservedOp

/-- A bus request: "Every one of the 2^26 patterns is legal" (R110). -/
def decodeBus (b : BitVec 26) : Instr :=
  if b.getLsbD 24 then .busWr (spaceOf (b.getLsbD 25)) (b.extractLsb' 8 16) (b.extractLsb' 0 8)
  else .busRd (spaceOf (b.getLsbD 25)) (b.extractLsb' 8 16) (b.extractLsb' 0 8)

/-- The scheduler's sequencer (R111); 0x8-0xF are reserved. -/
def decodeSphase (p : BitVec 4) : Decoded :=
  match p with
  | 0x0#4 => .instr .seqIdle
  | 0x1#4 => .instr .seqTop
  | 0x2#4 => .instr .seqPpu
  | 0x3#4 => .instr .seqDrain
  | 0x4#4 => .instr .seqPcheck
  | 0x5#4 => .instr .seqPwait
  | 0x6#4 => .instr .seqExitchk
  | 0x7#4 => .instr .seqHalt
  | _ => .reject .reservedPhase

/-- The consumer's sequencer (R112); 0b101-0b111 are reserved. -/
def decodeCphase (p : BitVec 3) : Decoded :=
  match p with
  | 0b000#3 => .instr .seqCIdle
  | 0b001#3 => .instr .seqCFetch
  | 0b010#3 => .instr .seqCSaveAck
  | 0b011#3 => .instr .seqCLoadAck
  | 0b100#3 => .instr .seqCHalt
  | _ => .reject .reservedPhase

/-- The decoder of the interface a word arrives on. -/
def decode : Words → Decoded
  | .ev e => decodeEv e
  | .pq q => decodePq q
  | .ctl c => decodeCtl c
  | .bus b => .instr (decodeBus b)
  | .sphase p => decodeSphase p
  | .cphase p => decodeCphase p

/-! ## Encoder -/

/-- An entry without side data. -/
def bareEntry (w : BitVec 32) : EvEntry := ⟨w, none, none⟩

/-- The entry the scheduler pushes for a completed frame (R103; 42_scheduler R173). -/
def frameEntry (seq : BitVec 28) (fb : Framebuffer) : EvEntry := ⟨0x1#4 ++ seq, some fb, none⟩

/-- The word the scheduler pushes for a sample (R103, R113). -/
def sampleWord (s : BitVec 16) : BitVec 32 := 0x2#4 ++ 0#12 ++ s

/-- The word of an INPUT event (R103). -/
def inputWord (port : BitVec 1) (button : BitVec 3) (down : Bool) : BitVec 32 :=
  0x3#4 ++ 0#23 ++ port ++ button ++ BitVec.ofBool down

/-- A pause word, "`{chan, 0b00000, ack, kind}`" (44_events R226). -/
def pauseWord (kind : PauseKind) (ack : Bool) (chan : Byte) : BitVec 16 :=
  chan ++ 0#5 ++ BitVec.ofBool ack ++ pauseKindBits kind

/-- The word of a PAUSE event (R103). -/
def pauseEvWord (kind : PauseKind) (ack : Bool) (chan : Byte) : BitVec 32 := 0x4#4 ++ 0#12 ++ pauseWord kind ack chan

/-- The word of a SETSTEP event (R103). -/
def setstepWord (mode : StepMode) : BitVec 32 := 0xA#4 ++ 0#26 ++ stepModeBits mode

/-- The quit sentinel, "always the exact word `0x0003`" (R105). -/
def quitsentWord : BitVec 16 := 0x0003

/-- The word of CONFIG (R107). -/
def configWord (region : Region) (hasSlc : Bool) : BitVec 64 :=
  0x1#4 ++ 0#58 ++ BitVec.ofBool hasSlc ++ regionBit region

/-- The word of MAP_ADD (R107). -/
def mapAddWord (space : Space) (dev : Byte) (lo hi : Addr) : BitVec 64 :=
  0x2#4 ++ 0#3 ++ spaceBit space ++ dev ++ 0#16 ++ lo ++ hi

/-- The word of CSR_READ (R107). -/
def csrReadWord (n : BitVec 8) : BitVec 64 := 0x5#4 ++ 0#52 ++ n

/-- A bus request (R110). -/
def busWord (space : Space) (we : Bool) (addr : Addr) (wdata : Byte) : BitVec 26 :=
  spaceBit space ++ BitVec.ofBool we ++ addr ++ wdata

/-- The words of an instruction, on its interface. -/
def encode : Instr → Words
  | .evFrame seq fb => .ev (frameEntry seq fb)
  | .evSample sample => .ev (bareEntry (sampleWord sample))
  | .evInput port button down => .ev (bareEntry (inputWord port button down))
  | .evPause kind ack chan => .ev (bareEntry (pauseEvWord kind ack chan))
  | .evSavestate => .ev (bareEntry 0x50000000)
  | .evLoadstate img => .ev ⟨0x60000000, none, some img⟩
  | .evQuit => .ev (bareEntry 0x70000000)
  | .evFramestep => .ev (bareEntry 0x80000000)
  | .evShowfps => .ev (bareEntry 0x90000000)
  | .evSetstep mode => .ev (bareEntry (setstepWord mode))
  | .pqToggle ack chan => .pq (pauseWord .toggle ack chan)
  | .pqPause ack chan => .pq (pauseWord .pause ack chan)
  | .pqUnpause ack chan => .pq (pauseWord .unpause ack chan)
  | .pqQuitsent => .pq quitsentWord
  | .ctlConfig region hasSlc => .ctl (configWord region hasSlc)
  | .ctlMapAdd space dev lo hi => .ctl (mapAddWord space dev lo hi)
  | .ctlReset => .ctl 0x3000000000000000
  | .ctlStart => .ctl 0x4000000000000000
  | .ctlCsrRead n => .ctl (csrReadWord n)
  | .ctlSinkFatal => .ctl 0x6000000000000000
  | .busRd space addr wdata => .bus (busWord space false addr wdata)
  | .busWr space addr wdata => .bus (busWord space true addr wdata)
  | .seqIdle => .sphase 0x0
  | .seqTop => .sphase 0x1
  | .seqPpu => .sphase 0x2
  | .seqDrain => .sphase 0x3
  | .seqPcheck => .sphase 0x4
  | .seqPwait => .sphase 0x5
  | .seqExitchk => .sphase 0x6
  | .seqHalt => .sphase 0x7
  | .seqCIdle => .cphase 0b000
  | .seqCFetch => .cphase 0b001
  | .seqCSaveAck => .cphase 0b010
  | .seqCLoadAck => .cphase 0b011
  | .seqCHalt => .cphase 0b100

/-! ## Pseudo-instructions (30_encoding R116) -/

/-- `ev.press` and `ev.release`. -/
def evPress (port : BitVec 1) (button : BitVec 3) : BitVec 32 := inputWord port button true
def evRelease (port : BitVec 1) (button : BitVec 3) : BitVec 32 := inputWord port button false

/-- `ev.step`: "select a step granularity and resume". -/
def evStep (mode : StepMode) : List (BitVec 32) := [setstepWord mode, pauseEvWord .unpause false 0]

/-- `ctl.construct`: CONFIG, then one MAP_ADD per entry of the list, in list order. -/
def ctlConstruct (region : Region) (hasSlc : Bool) (map : List (Space × MapEntry)) : List (BitVec 64) :=
  configWord region hasSlc :: map.map fun m => mapAddWord m.1 m.2.dev m.2.lo m.2.hi

/-- `ctl.run`. -/
def ctlRun : BitVec 64 := 0x4000000000000000

/-- `ctl.teardown`: an event word, posted on the host port (46_lifecycle R288). -/
def ctlTeardown : BitVec 32 := 0x70000000

/-! ## The table's words -/

/-- The side data laid beside an event word that comes from the opcode table: the table gives it no bits, so FRAME gets an
empty framebuffer and LOADSTATE the marker `IoError`. DESIGN CHOICE, safe (log 5). -/
def tableEntry (w : BitVec 32) : EvEntry :=
  ⟨w, if w.extractLsb' 28 4 = 0x1#4 then some ⟨[]⟩ else none, if w.extractLsb' 28 4 = 0x6#4 then some .ioError else none⟩

/-- The interface a table word of `nbits` bits stands on, its width telling which: at most 3 bits the consumer's sequencer,
at most 8 the scheduler's, at most 16 PQ, at most 32 BUS where the word fits 26 bits (as an event word it would have the
reserved tag 0) and EV where it does not, else CTL. DESIGN CHOICE, safe: a width and a number alone do not name the
interface (log 1). -/
def tableWords (nbits w : Nat) : Words :=
  if nbits ≤ 3 then .cphase (BitVec.ofNat 3 w)
  else if nbits ≤ 8 then .sphase (BitVec.ofNat 4 w)
  else if nbits ≤ 16 then .pq (BitVec.ofNat 16 w)
  else if nbits ≤ 32 then
    if w < 2 ^ 26 then .bus (BitVec.ofNat 26 w) else .ev (tableEntry (BitVec.ofNat 32 w))
  else .ctl (BitVec.ofNat 64 w)

/-- What the decoder reads from a word of the opcode table. -/
def decodeTableWord (nbits w : Nat) : Option Instr := (decode (tableWords nbits w)).instr?

end Sys2Proof
end

