-- ==== Sys2Proof/Machine/DevStore.lean ====
section
/-!
DEFINITION. The states of the devices that have a state of their own (10_state R48), as a list in ONE canonical form:
device identifiers strictly rising, no empty byte string listed, so that equal stores are equal lists (log 10).
-/
namespace Sys2Proof.Machine

/-- The state of device `d`: the empty byte string where none is listed. -/
def devGet : DevStore → Nat → Blob
  | [], _ => []
  | (k, b) :: rest, d => if k = d then b else devGet rest d

/-- Make `b` the state of device `d`, keeping the canonical form: an empty byte string is not listed. -/
def devSet : DevStore → Nat → Blob → DevStore
  | [], d, b => if b = [] then [] else [(d, b)]
  | (k, c) :: rest, d, b =>
    if d < k then if b = [] then (k, c) :: rest else (d, b) :: (k, c) :: rest
    else if d = k then if b = [] then rest else (d, b) :: rest
    else (k, c) :: devSet rest d b

/-- The canonical form of any list of device states; of two for one device the first stands. -/
def devNorm : DevStore → DevStore
  | [] => []
  | (k, b) :: rest => devSet (devNorm rest) k b

/-- The canonical form holds. -/
def devWf : DevStore → Bool
  | [] => true
  | (k, b) :: rest => b != [] && rest.all (fun e => decide (k < e.1)) && devWf rest

end Sys2Proof.Machine
end

