-- ==== Sys2Proof/Machine/State.lean ====
section
/-!
DEFINITION. The state of the block, every piece 10_state gives it and the ports the model adds, as plain data; the reasons
a step can stop; the state at power-on.
-/
namespace Sys2Proof.Machine

/-- Why the machine stops with a fault. -/
inductive Fault where
  /-- Raised by the fetch of a scheduler step when SPHASE holds 0x8-0xF: "a model that finds itself in one has left the
  rules and must treat the state as stuck (no step)" (30_encoding R114). Safe: no step reaches such a state (log 16). -/
  | reservedSphase
  /-- Raised by the fetch of a consumer step when CPHASE holds 0b101-0b111 (R114). Safe, as above (log 16). -/
  | reservedCphase
  deriving DecidableEq, Repr

/-- Why the model gives no meaning. -/
inductive Refusal where
  /-- Raised by an arm of `exec` whose instruction has no meaning yet; safe. No arm raises it. -/
  | notModelled (mnemonic : String)
  deriving DecidableEq, Repr

/-- FAULT (10_state R31). -/
inductive FaultCode where
  | none
  | unsupportedOpcode
  | busFault
  | sinkFailure
  deriving DecidableEq, Repr

/-- STATUS.CTL_STATUS (10_state R43); code 7 is never written (log 23). -/
inductive CtlStatus where
  | ok
  | illegal
  | busy
  | mapConflict
  | mapFull
  | mapRange
  | notRunnable
  deriving DecidableEq, Repr

/-- STATUS.SNAP_STATUS (10_state R43); codes 8-15 are never written (log 23). -/
inductive SnapStatus where
  | none
  | saved
  | loaded
  | errIo
  | errVersion
  | errMissing
  | errDecode
  | aborted
  deriving DecidableEq, Repr

/-- The records of the output history (10_state R44). -/
inductive OutRec where
  | videoFrame (seq : BitVec 28) (fb : Framebuffer) (showFps : Bool)
  | audioSample (s : Int)
  | ack (chan : Byte) (changed : Bool)
  | snapImage (image : Image)
  | snapReport (code : SnapStatus)
  | fatal (code : FaultCode)
  deriving DecidableEq, Repr

/-- The platform parameters (00_scope R7): `none` is an unbounded queue (log 12). -/
structure Platform where
  evqDepth : Option Nat
  pqDepth : Option Nat
  devices : List (Byte × DevKind)
  fbW : Nat
  fbH : Nat
  deriving DecidableEq, Repr

/-- The state (10_state). DIV_NUM, Q_DEN, MAP_COUNT and IRQ_LINE are views of it (log 21). -/
structure State where
  /-- RUN.RUNNING (R21) -/
  running : Bool
  /-- RUN.STARTED (R21) -/
  started : Bool
  /-- STEP_MODE (R22) -/
  stepMode : StepMode
  /-- QUOTA, in units of 1/5 PPU cycle (R23) -/
  quota : BitVec 32
  /-- RATIO.REGION (R24) -/
  region : Region
  /-- RATIO.HAS_SLC (R24) -/
  hasSlc : Bool
  /-- PAUSED (R25) -/
  paused : Bool
  /-- SPHASE (R26) -/
  sphase : BitVec 4
  /-- PWAIT_RET (R26) -/
  pwaitRet : Bool
  /-- DRAIN_PENDING (R27) -/
  drainPending : BitVec 16
  /-- CPU_CYC (R28) -/
  cpuCyc : BitVec 64
  /-- PPU_CYC (R29) -/
  ppuCyc : BitVec 64
  /-- FRAME_SEQ (R30) -/
  frameSeq : BitVec 28
  /-- FAULT (R31) -/
  fault : FaultCode
  /-- NMI_LATCH (R32) -/
  nmiLatch : Bool
  /-- NMI_PREV (R33) -/
  nmiPrev : Bool
  /-- MAP[CPU] (R35), in the order the entries were added -/
  mapCpu : List MapEntry
  /-- MAP[PPU] (R35) -/
  mapPpu : List MapEntry
  /-- OPEN_BUS[CPU] (R36) -/
  openBusCpu : Byte
  /-- OPEN_BUS[PPU] (R36) -/
  openBusPpu : Byte
  /-- CTRL[0] (R37) -/
  ctrl0 : Byte
  /-- CTRL[1] (R37) -/
  ctrl1 : Byte
  /-- EVQ (R38), head first -/
  evq : List EvEntry
  /-- PQ (R39), head first -/
  pq : List (BitVec 16)
  /-- CPHASE (R40) -/
  cphase : BitVec 3
  /-- CUR_EV (R40) -/
  curEv : Option EvEntry
  /-- ACK_VALID (R41) -/
  ackValid : Bool
  /-- ACK_VAL (R41) -/
  ackVal : Bool
  /-- SHOW_FPS (R42) -/
  showFps : Bool
  /-- STATUS.EV_ILLEGAL, sticky (R43) -/
  evIllegal : Bool
  /-- STATUS.HOST_REFUSED, sticky (R43) -/
  hostRefused : Bool
  /-- STATUS.CONS_FAIL, sticky (R43) -/
  consFail : Bool
  /-- STATUS.CTL_STATUS (R43) -/
  ctlStatus : CtlStatus
  /-- STATUS.SNAP_STATUS (R43) -/
  snapStatus : SnapStatus
  /-- `cpu_state` (R45) -/
  cpu : CpuState
  /-- `ppu_state` (R46) -/
  ppu : PpuState
  /-- `mapper_state` (R47) -/
  mapper : MapperState
  /-- `dev_state` of the devices with a state of their own (R48; log 10) -/
  dev : DevStore
  /-- OUT, oldest first (R44; log 18) -/
  out : List OutRec
  /-- MODEL: the `rdata` the CTL port last returned (30_encoding R108; log 15) -/
  ctlRdata : BitVec 64
  /-- MODEL: the `rdata` the multiplexer last returned to `busReq` (30_encoding R110; log 14) -/
  busRdata : Byte
  /-- MODEL: a bus request standing at the multiplexer between steps; no step fills it (log 14) -/
  busReq : Option (BitVec 26)
  /-- MODEL: what waits at the host's ports, oldest first (44_events R239; log 4) -/
  hostPort : List HostCmd
  /-- MODEL: the agent that takes this step (60_exceptions R314; log 2) -/
  turn : Agent
  /-- MODEL: the counter the free values of the schedule and the host are applied to (log 2, log 4) -/
  tick : Nat
  /-- MODEL: the platform, changed by no step (00_scope R7; log 12) -/
  plat : Platform
  deriving DecidableEq, Repr

/-! ## Sequencer codes (30_encoding R111, R112) -/

abbrev SPhase.idle : BitVec 4 := 0x0
abbrev SPhase.top : BitVec 4 := 0x1
abbrev SPhase.ppu : BitVec 4 := 0x2
abbrev SPhase.drain : BitVec 4 := 0x3
abbrev SPhase.pcheck : BitVec 4 := 0x4
abbrev SPhase.pwait : BitVec 4 := 0x5
abbrev SPhase.exitchk : BitVec 4 := 0x6
abbrev SPhase.halt : BitVec 4 := 0x7

abbrev CPhase.idle : BitVec 3 := 0b000
abbrev CPhase.fetch : BitVec 3 := 0b001
abbrev CPhase.saveAck : BitVec 3 := 0b010
abbrev CPhase.loadAck : BitVec 3 := 0b011
abbrev CPhase.halt : BitVec 3 := 0b100

/-- The state at power-on, when the block is constructed (10_state R53, the power-on column; log 28). The draws are opaque
(log 11); the model's own fields are DESIGN CHOICES no statement rests on (log 2, 4, 12, 14, 15). -/
def State.reset : State where
  running := false
  started := false
  stepMode := .noStep
  quota := 0
  region := .ntsc
  hasSlc := false
  paused := false
  sphase := SPhase.idle
  pwaitRet := false
  drainPending := 0
  cpuCyc := 0
  ppuCyc := 0
  frameSeq := 0
  fault := .none
  nmiLatch := false
  nmiPrev := false
  mapCpu := []
  mapPpu := []
  openBusCpu := Config.openBusInit .cpu
  openBusPpu := Config.openBusInit .ppu
  ctrl0 := 0
  ctrl1 := 0
  evq := []
  pq := []
  cphase := CPhase.idle
  curEv := none
  ackValid := false
  ackVal := false
  showFps := false
  evIllegal := false
  hostRefused := false
  consFail := false
  ctlStatus := .ok
  snapStatus := .none
  cpu := Config.cpuPowerOn
  ppu := Config.ppuPowerOn
  mapper := Config.mapperPowerOn
  dev := devNorm (Config.devices.map fun d => (d.1.toNat, Config.devicePowerOn d.1))
  out := []
  ctlRdata := 0
  busRdata := 0
  busReq := none
  hostPort := []
  turn := .host
  tick := 0
  plat := ⟨none, none, Config.devices, Config.fbW, Config.fbH⟩

/-- What an instruction answers. -/
abbrev Answer := Host.Outcome State Fault Refusal

end Sys2Proof.Machine
end

