-- ==== Sys2Proof/Machine/Operands.lean ====
section
/-!
DEFINITION. The operands of the rules: per-space and per-port views of the state, address lookup, queue room, and the CSR
layout of 10_state R54.
-/
namespace Sys2Proof.Machine

/-! ## Views -/

/-- DIV_NUM, a function of REGION (10_state R24). -/
def State.divNum (s : State) : Nat := Config.divNum s.region

/-- IRQ_LINE, the live level (10_state R34, 41_interrupt_controller R160). -/
def State.irqLine (s : State) : Bool := Config.mapperIrq s.mapper

/-- MAP[space] (10_state R35). -/
def State.map (s : State) : Space → List MapEntry
  | .cpu => s.mapCpu
  | .ppu => s.mapPpu

/-- Replace MAP[space]. -/
def State.setMap (s : State) (sp : Space) (m : List MapEntry) : State :=
  match sp with
  | .cpu => { s with mapCpu := m }
  | .ppu => { s with mapPpu := m }

/-- OPEN_BUS[space] (10_state R36). -/
def State.openBus (s : State) : Space → Byte
  | .cpu => s.openBusCpu
  | .ppu => s.openBusPpu

/-- Replace OPEN_BUS[space]. -/
def State.setOpenBus (s : State) (sp : Space) (v : Byte) : State :=
  match sp with
  | .cpu => { s with openBusCpu := v }
  | .ppu => { s with openBusPpu := v }

/-- CTRL[port] (10_state R37). -/
def State.ctrl (s : State) (port : BitVec 1) : Byte := if port = 0 then s.ctrl0 else s.ctrl1

/-- Replace CTRL[port], one whole-byte write (44_events R225). -/
def State.setCtrl (s : State) (port : BitVec 1) (v : Byte) : State :=
  if port = 0 then { s with ctrl0 := v } else { s with ctrl1 := v }

/-- A latch byte with the bit of `button` made `down` (44_events R225). -/
def withButton (latch : Byte) (button : BitVec 3) (down : Bool) : Byte :=
  let mask : Byte := 1#8 <<< button.toNat
  if down then latch ||| mask else latch &&& ~~~mask

/-! ## Address lookup -/

/-- The range of an entry contains the address, both ends inclusive (40_bus R131, R134). -/
def entryHolds (e : MapEntry) (addr : Addr) : Bool := e.lo ≤ addr && addr ≤ e.hi

/-- The range of an entry meets `lo..hi` (40_bus R133). -/
def entryMeets (e : MapEntry) (lo hi : Addr) : Bool := e.lo ≤ hi && lo ≤ e.hi

/-- `Lookup(space, addr)` (40_bus R134). -/
def State.lookup (s : State) (sp : Space) (addr : Addr) : Option Byte :=
  ((s.map sp).find? fun e => entryHolds e addr).map (·.dev)

/-- `d ∈ DeviceSet` (40_bus R130, R133). -/
def Platform.hasDevice (p : Platform) (d : Byte) : Bool := p.devices.any fun x => x.1 == d

/-- Where the state of device `d` lives; a device the platform does not list has a state of its own. DESIGN CHOICE, safe: no
reachable map names such a device (log 27). -/
def Platform.kindOf (p : Platform) (d : Byte) : DevKind :=
  ((p.devices.find? fun x => x.1 == d).map (·.2)).getD .plain

/-! ## Queue room (44_events R239) -/

/-- `len < depth`; always, for an unbounded queue. -/
def roomFor (depth : Option Nat) (len : Nat) : Bool :=
  match depth with
  | none => true
  | some d => decide (len < d)

/-- `len(EVQ) < EVQ_DEPTH`. -/
def State.evqRoom (s : State) : Bool := roomFor s.plat.evqDepth s.evq.length

/-- `len(PQ) < PQ_DEPTH`. -/
def State.pqRoom (s : State) : Bool := roomFor s.plat.pqDepth s.pq.length

/-! ## The CSR map (10_state R54) -/

/-- FAULT codes (10_state R31). -/
def faultBits : FaultCode → BitVec 2
  | .none => 0b00
  | .unsupportedOpcode => 0b01
  | .busFault => 0b10
  | .sinkFailure => 0b11

/-- CTL_STATUS codes (10_state R43). -/
def ctlStatusBits : CtlStatus → BitVec 3
  | .ok => 0
  | .illegal => 1
  | .busy => 2
  | .mapConflict => 3
  | .mapFull => 4
  | .mapRange => 5
  | .notRunnable => 6

/-- SNAP_STATUS codes (10_state R43). -/
def snapStatusBits : SnapStatus → BitVec 4
  | .none => 0
  | .saved => 1
  | .loaded => 2
  | .errIo => 3
  | .errVersion => 4
  | .errMissing => 5
  | .errDecode => 6
  | .aborted => 7

/-- A field of a CSR, at bit `pos`. -/
def field {n : Nat} (v : BitVec n) (pos : Nat) : BitVec 64 := v.setWidth 64 <<< pos

/-- A one-bit field of a CSR. -/
def flag (b : Bool) (pos : Nat) : BitVec 64 := field (BitVec.ofBool b) pos

/-- `min(len, 2^32 − 1)`. -/
def countWord (len : Nat) : BitVec 64 := BitVec.ofNat 64 (min len (2 ^ 32 - 1))

/-- `MAP_CPU[i]` and `MAP_PPU[i]`: "all 0 when not valid". -/
def mapCsr (m : List MapEntry) (i : Nat) : BitVec 64 :=
  match m[i]? with
  | none => 0
  | some e => field e.hi 0 ||| field e.lo 16 ||| field e.dev 32 ||| flag true 63

/-- Register `n` as R54 lays it out; `none` for a reserved number. -/
def State.csr (s : State) (n : BitVec 8) : Option (BitVec 64) :=
  match n.toNat with
  | 0x00 => some (field Config.blockId 0)
  | 0x01 => some (flag s.running 0 ||| flag s.started 1)
  | 0x02 => some (field s.sphase 0 ||| flag s.pwaitRet 4)
  | 0x03 => some (field s.cphase 0)
  | 0x04 => some (field (stepModeBits s.stepMode) 0)
  | 0x05 => some (flag s.paused 0)
  | 0x06 => some (field s.quota 0)
  | 0x07 => some (field (BitVec.ofNat 8 Config.qDen) 0 ||| field (BitVec.ofNat 8 s.divNum) 8 |||
      field (regionBit s.region) 16 ||| flag s.hasSlc 17)
  | 0x08 => some (field s.drainPending 0)
  | 0x09 => some (field s.cpuCyc 0)
  | 0x0A => some (field s.ppuCyc 0)
  | 0x0B => some (field s.frameSeq 0)
  | 0x0C => some (flag s.nmiLatch 0 ||| flag s.nmiPrev 1 ||| flag s.irqLine 2)
  | 0x0D => some (field (faultBits s.fault) 0)
  | 0x0E => some (flag s.evIllegal 0 ||| flag s.hostRefused 1 ||| field (ctlStatusBits s.ctlStatus) 2 |||
      field (snapStatusBits s.snapStatus) 5 ||| flag s.consFail 9)
  | 0x0F => some (field s.openBusCpu 0 ||| field s.openBusPpu 8)
  | 0x10 => some (field s.ctrl0 0 ||| field s.ctrl1 8)
  | 0x11 => some (flag s.showFps 0)
  | 0x12 => some (countWord s.evq.length)
  | 0x13 => some (countWord s.pq.length)
  | 0x14 => some (field (BitVec.ofNat 6 s.mapCpu.length) 0 ||| field (BitVec.ofNat 6 s.mapPpu.length) 8)
  | 0x15 => some (flag s.ackValid 0 ||| flag s.ackVal 1)
  | k =>
    if 0x20 ≤ k ∧ k ≤ 0x3F then some (mapCsr s.mapCpu (k - 0x20))
    else if 0x40 ≤ k ∧ k ≤ 0x5F then some (mapCsr s.mapPpu (k - 0x40))
    else none

end Sys2Proof.Machine
end

