-- ==== Sys2Proof/Machine/Flags.lean ====
section
/-!
DEFINITION. The flag rules: the NMI edge detector, the pause transition, the self-pause of the step modes, the quota
comparison, and the status bits a command or an event leaves.
-/
namespace Sys2Proof.Machine

/-- `QUOTA >= Q_DEN`, the source's `ppu_quota ≥ 1.0` (10_state R23). -/
def State.owesPpu (s : State) : Bool := decide (Config.qDen ≤ s.quota.toNat)

/-- NMI edge detect (41_interrupt_controller R157): a rising edge sets the latch; nothing here clears it. -/
def nmiSample (level : Bool) (s : State) : State :=
  { s with nmiLatch := s.nmiLatch || (level && !s.nmiPrev), nmiPrev := level }

/-- The new PAUSED of a request (43_pause R201). -/
def pausedAfter (kind : PauseKind) (old : Bool) : Bool :=
  match kind with
  | .toggle => !old
  | .pause => true
  | .unpause => false

/-- A completed frame pauses the scheduler under FrameStep (42_scheduler R173 b). -/
def State.pausesOnFrame (s : State) : Bool := decide (s.stepMode = .frameStep)

/-- A PPU cycle pauses the scheduler under CycleStep, and under ScanlineStep when the scanline changed (42_scheduler R173 e,
R188: "Only inequality is tested"). -/
def State.pausesOnCycle (s : State) (slBefore : BitVec 16) : Bool :=
  decide (s.stepMode = .cycleStep) || (decide (s.stepMode = .scanlineStep) && s.ppu.scanline != slBefore)

/-- The FAULT code of a CPU error (60_exceptions R301). -/
def faultOf : CpuErr → FaultCode
  | .unsupportedOpcode => .unsupportedOpcode
  | .busFault => .busFault

/-- A command's result (30_encoding R108). -/
def State.setCtl (s : State) (code : CtlStatus) : State := { s with ctlStatus := code }

/-- An illegal control word: "`CTL_STATUS <- ILLEGAL`, no other effect, `rdata = 0`" (30_encoding R109). -/
def illegalCtl (s : State) : State := { s with ctlStatus := .illegal, ctlRdata := 0 }

/-- A failed MAP_ADD that fails construction (40_bus R133). -/
def State.failConstruction (s : State) (code : CtlStatus) : State := { s with ctlStatus := code, consFail := true }

/-- A discarded event (44_events R233). -/
def discardEvent (s : State) : State := { s with evIllegal := true }

/-- "SPHASE ≠ IDLE or RUN.STARTED = 1": the configuration commands are BUSY (46_lifecycle R280-R282, 40_bus R133). -/
def State.busy (s : State) : Bool := s.sphase != SPhase.idle || s.started

end Sys2Proof.Machine
end

