-- ==== Sys2Proof/Machine/Ops.lean ====
section
/-!
DEFINITION. The operations the instructions share: outputs and queues, bus transactions and primitive calls over them, the
fatal entry, acknowledgements, the reset sequence, and snapshot capture and restore.
-/
namespace Sys2Proof.Machine

/-! ## Outputs and queues -/

/-- `emit` (00_scope R10): append to the output history. -/
def State.emit (s : State) (r : OutRec) : State := { s with out := s.out ++ [r] }

/-- `push(EVQ, e)` (00_scope R10, 10_state R38). -/
def State.pushEv (s : State) (e : EvEntry) : State := { s with evq := s.evq ++ [e] }

/-- The scheduler's push of a FRAME or SAMPLE: dropped once Quitting (42_scheduler R179). -/
def State.pushIfRunning (s : State) (e : EvEntry) : State := if s.running then s.pushEv e else s

/-- `push(PQ, q)` (00_scope R10, 10_state R39). -/
def State.pushPq (s : State) (q : BitVec 16) : State := { s with pq := s.pq ++ [q] }

/-! ## Bus transactions (40_bus R130-R132) -/

/-- `DevRead(d, space, addr, dev_state[d])`, the new device state put back where it lives (10_state R48). -/
def devRead (d : Byte) (sp : Space) (addr : Addr) (s : State) : Byte × State :=
  match s.plat.kindOf d with
  | .ppuRegs =>
    let r := Config.ppuDevRead d sp addr s.ppu
    (r.1, { s with ppu := r.2 })
  | .mapper =>
    let r := Config.mapperDevRead d sp addr s.mapper
    (r.1, { s with mapper := r.2 })
  | .controller =>
    let r := Config.ctrlDevRead d sp addr s.ctrl0 s.ctrl1 (devGet s.dev d.toNat)
    (r.1, { s with dev := devSet s.dev d.toNat r.2 })
  | .cpuOwned | .plain =>
    let r := Config.devRead d sp addr (devGet s.dev d.toNat)
    (r.1, { s with dev := devSet s.dev d.toNat r.2 })

/-- `DevWrite(d, space, addr, v, dev_state[d])`. -/
def devWrite (d : Byte) (sp : Space) (addr : Addr) (v : Byte) (s : State) : State :=
  match s.plat.kindOf d with
  | .ppuRegs => { s with ppu := Config.ppuDevWrite d sp addr v s.ppu }
  | .mapper => { s with mapper := Config.mapperDevWrite d sp addr v s.mapper }
  | .controller | .cpuOwned | .plain =>
    { s with dev := devSet s.dev d.toNat (Config.devWrite d sp addr v (devGet s.dev d.toNat)) }

/-- `MemRead(space, addr, 1)` (40_bus R131). -/
def memRead (sp : Space) (addr : Addr) (s : State) : Byte × State :=
  match s.lookup sp addr with
  | some d =>
    let r := devRead d sp addr s
    (r.1, r.2.setOpenBus sp r.1)
  | none => (s.openBus sp, s)

/-- `MemWrite(space, addr, 1, v)` (40_bus R132). -/
def memWrite (sp : Space) (addr : Addr) (v : Byte) (s : State) : State :=
  match s.lookup sp addr with
  | some d => (devWrite d sp addr v s).setOpenBus sp v
  | none => s.setOpenBus sp v

/-- A primitive call: its transactions one after another in its space, then its result (40_bus R136). -/
def runBus {α : Type} (sp : Space) : BusProg α → State → α × State
  | .done a, s => (a, s)
  | .read addr k, s => runBus sp (k (memRead sp addr s).1) (memRead sp addr s).2
  | .write addr v k, s => runBus sp k (memWrite sp addr v s)

/-! ## The fatal entry: the block's only trap-like entry; there is no return from it (60_exceptions R302, R304) -/

/-- `raise FatalExecution(code)`, less the HALT transfer: the first fatal error wins, RUNNING is cleared, `Fatal` emitted. -/
def fatalEntry (code : FaultCode) (s : State) : State :=
  { s with fault := if s.fault = .none then code else s.fault, running := false, out := s.out ++ [.fatal code] }

/-- The fatal entry raised in TOP: "`sphase <- HALT`". -/
def fatalInTop (code : FaultCode) (s : State) : State := { fatalEntry code s with sphase := SPhase.halt }

/-! ## Pause requests (43_pause R201, R206) -/

/-- `Acknowledge(chan, changed)`: channel 0 is the consumer's mailbox, any other a host back-channel. -/
def acknowledge (chan : Byte) (changed : Bool) (s : State) : State :=
  if chan = 0 then { s with ackValid := true, ackVal := changed } else s.emit (.ack chan changed)

/-- `ApplyPause` of a request that can be acknowledged: PAUSED is written first, then the acknowledgement sent. -/
def applyPause (kind : PauseKind) (ack : Bool) (chan : Byte) (s : State) : State :=
  let new := pausedAfter kind s.paused
  let t := { s with paused := new }
  if ack then acknowledge chan (new != s.paused) t else t

/-! ## Reset (46_lifecycle R281, 70_reset_and_hazards R330) -/

/-- What `CpuReset` makes of `acc`, the device states so far, at the platform's device `x`: the device's state before the reset
is in `dev`, so that a device listed twice is reset once. -/
def resetDevice (p : Platform) (cpu : CpuState) (dev : DevStore) (x : Byte × DevKind) (acc : DevStore) : DevStore :=
  if p.kindOf x.1 = .cpuOwned then devSet acc x.1.toNat (Config.cpuResetDev x.1 cpu (devGet dev x.1.toNat)) else acc

/-- The device states after a reset: "unchanged (except as `CpuReset`/`PpuReset` change their own devices)" (10_state R53). The
CPU's own devices change here, the PPU-register device with `ppu_state` (log 32). -/
def resetDevices (p : Platform) (cpu : CpuState) (dev : DevStore) : DevStore :=
  p.devices.foldr (resetDevice p cpu dev) dev

/-- `DoReset()`: all its effects; every other field keeps its value. -/
def doReset (s : State) : State :=
  { s with
    cpu := Config.cpuReset s.cpu
    ppu := Config.ppuReset s.ppu
    dev := resetDevices s.plat s.cpu s.dev
    quota := 0
    ctrl0 := 0
    ctrl1 := 0
    cpuCyc := 0
    ppuCyc := 0
    drainPending := 0
    frameSeq := 0
    nmiLatch := false
    nmiPrev := false
    paused := false }

/-! ## Snapshots (45_snapshot) -/

/-- `SnapCodec.encode` (00_scope R14; log 13). -/
def snapEncode (r : SnapRecord) : SnapBytes := .encoded r

/-- `SnapCodec.decode` (00_scope R14; log 13). -/
def snapDecode : SnapBytes → Option SnapRecord
  | .encoded r => some r
  | .other raw => Config.decodeOther raw

/-- The record `Capture()` takes (R262). -/
def capture (s : State) : SnapRecord where
  cpu := s.cpu
  ppu := s.ppu
  mapper := s.mapper
  ctrl0 := s.ctrl0
  ctrl1 := s.ctrl1
  dev := s.dev
  quota := s.quota
  stepMode := s.stepMode
  drainPending := s.drainPending
  cpuCyc := s.cpuCyc
  ppuCyc := s.ppuCyc
  frameSeq := s.frameSeq
  nmiLatch := s.nmiLatch
  nmiPrev := s.nmiPrev
  openBusCpu := s.openBusCpu
  openBusPpu := s.openBusPpu

/-- The image `Capture()` returns (R262), which a save emits. 00_scope R14 types `SnapCodec.encode` as a function to an image and
44_events R234 writes `SnapCodec.encode(Capture())`; R261-R263 make `encode` the bytes of the archive's `state` entry and build
the image in `Capture()`, and the model takes them (DESIGN CHOICE, safe, log 31). -/
def captureImage (s : State) : Image :=
  .archive (some ⟨Config.snapVersion⟩) (some (snapEncode (capture s)))

/-- `Apply(r)` (R264): exactly these fields. The device states of `r` are put into canonical form (log 24). -/
def applyRecord (r : SnapRecord) (s : State) : State :=
  { s with
    cpu := r.cpu
    ppu := r.ppu
    mapper := r.mapper
    ctrl0 := r.ctrl0
    ctrl1 := r.ctrl1
    dev := devNorm r.dev
    quota := r.quota
    stepMode := r.stepMode
    drainPending := r.drainPending
    cpuCyc := r.cpuCyc
    ppuCyc := r.ppuCyc
    frameSeq := r.frameSeq
    nmiLatch := r.nmiLatch
    nmiPrev := r.nmiPrev
    openBusCpu := r.openBusCpu
    openBusPpu := r.openBusPpu }

/-- `trunc_64(cpu_cyc × DIV_NUM) = trunc_64(ppu_cyc × Q_DEN + quota)` (10_state R51, 45_snapshot R263). -/
def ratioHolds (region : Region) (cpuCyc ppuCyc : BitVec 64) (quota : BitVec 32) : Bool :=
  (cpuCyc.toNat * Config.divNum region) % 2 ^ 64 == (ppuCyc.toNat * Config.qDen + quota.toNat) % 2 ^ 64

/-- `Q_DEN − 1 + 65535 × DIV_NUM`, the bound of QUOTA (10_state R23). -/
def quotaMax (region : Region) : Nat := Config.qDen - 1 + 65535 * Config.divNum region

/-- The state a valid record may be loaded into: both checks of R263. -/
def recordFits (region : Region) (r : SnapRecord) : Bool :=
  ratioHolds region r.cpuCyc r.ppuCyc r.quota && decide (r.quota.toNat ≤ quotaMax region)

/-- The validation of `LoadImage(img)` in its order (R263): the first failure's code, or the record to apply. -/
def checkImage (region : Region) : Image → SnapStatus × Option SnapRecord
  | .ioError => (.errIo, none)
  | .archive none _ => (.errVersion, none)
  | .archive (some m) st =>
    if m.version != Config.snapVersion then (.errVersion, none)
    else
      match st with
      | none => (.errMissing, none)
      | some b =>
        match snapDecode b with
        | none => (.errDecode, none)
        | some r => if recordFits region r then (.loaded, some r) else (.errDecode, none)

/-- `LoadImage(img)` (R263): the code, and the state with the record applied or as it was. -/
def loadImage (img : Image) (s : State) : SnapStatus × State :=
  match checkImage s.region img with
  | (code, none) => (code, s)
  | (code, some r) => (code, applyRecord r s)

/-! ## Hooks outside the block -/

/-- `FpsLimit()` "reads and writes no block state" (42_scheduler R180; log 19). -/
def fpsLimit (s : State) : State := s

/-- `BatteryStore(mapper_state)`, which the host may read once the scheduler is in HALT; "it writes no block state"
(46_lifecycle R283; log 20). -/
def State.batteryImage (s : State) : Option Blob :=
  if s.sphase = SPhase.halt then some (Config.batteryStore s.mapper) else none

/-- A framebuffer of the platform's dimensions from its pixels (10_state R38; log 26). -/
def framebufferOf (p : Platform) (pixel : Nat → Nat → Pixel) : Framebuffer :=
  ⟨(List.range p.fbH).map fun y => (List.range p.fbW).map fun x => pixel x y⟩

end Sys2Proof.Machine
end

