-- ==== Sys2Proof/Machine/Bus.lean ====
section
/-!
DEFINITION. The BUS instructions (40_bus): one byte transaction through the multiplexer. A request that stands at the
multiplexer's port gets its read data in `busRdata` (30_encoding R110; log 14).
-/
namespace Sys2Proof.Machine

/-- BUS.RD (40_bus R131). "wdata (u8, ignored for a read)" (30_encoding R110). -/
def execBusRd (sp : Space) (addr : Addr) (_wdata : Byte) (s : State) : Answer :=
  let r := memRead sp addr s
  .next { r.2 with busRdata := r.1 }

/-- BUS.WR (40_bus R132). -/
def execBusWr (sp : Space) (addr : Addr) (wdata : Byte) (s : State) : Answer := .next (memWrite sp addr wdata s)

end Sys2Proof.Machine
end

