-- ==== Sys2Proof/Machine/Events.lean ====
section
/-!
DEFINITION. The EV instructions: the handlers of 44_events R223-R232, each as what it does to the state once its entry is
popped (`onX`, which C_FETCH runs) and as the instruction's answer.
-/
namespace Sys2Proof.Machine

/-- FRAME (44_events R223): "deliver frames to the video sink". -/
def onFrame (seq : BitVec 28) (fb : Framebuffer) (s : State) : State := s.emit (.videoFrame seq fb s.showFps)

/-- SAMPLE (R224): the 16 bits read as two's complement, unchanged (30_encoding R113). -/
def onSample (sample : BitVec 16) (s : State) : State := s.emit (.audioSample sample.toInt)

/-- INPUT (R225). -/
def onInput (port : BitVec 1) (button : BitVec 3) (down : Bool) (s : State) : State :=
  s.setCtrl port (withButton (s.ctrl port) button down)

/-- PAUSE (R226): the request is forwarded to the scheduler. -/
def onPauseEvent (kind : PauseKind) (ack : Bool) (chan : Byte) (s : State) : State :=
  s.pushPq (pauseWord kind ack chan)

/-- The handshake's request, "Pause, ack on channel 0" (R227): `0x0005`. -/
def handshakeWord : BitVec 16 := 0x0005

/-- The handshake's resume (R234): `0x0002`. -/
def resumeWord : BitVec 16 := 0x0002

/-- Begin a handshake for the entry `e` (R227, R228). -/
def beginHandshake (e : EvEntry) (phase : BitVec 3) (s : State) : State :=
  { s.pushPq handshakeWord with curEv := some e, cphase := phase }

/-- SAVESTATE (R227). -/
def onSavestate (s : State) : State := beginHandshake (bareEntry 0x50000000) CPhase.saveAck s

/-- LOADSTATE (R228). -/
def onLoadstate (img : Image) (s : State) : State := beginHandshake ⟨0x60000000, none, some img⟩ CPhase.loadAck s

/-- QUIT (R229): Quitting, and the sentinel that unblocks a paused scheduler. -/
def onQuit (s : State) : State := { s.pushPq quitsentWord with running := false }

/-- FRAMESTEP (R230). -/
def onFramestep (s : State) : State := { s with stepMode := .frameStep }

/-- SHOWFPS (R231). -/
def onShowfps (s : State) : State := { s with showFps := !s.showFps }

/-- SETSTEP (R232). -/
def onSetstep (mode : StepMode) (s : State) : State := { s with stepMode := mode }

/-- EV.FRAME. -/
def execEvFrame (seq : BitVec 28) (fb : Framebuffer) (s : State) : Answer := .next (onFrame seq fb s)

/-- EV.SAMPLE. -/
def execEvSample (sample : BitVec 16) (s : State) : Answer := .next (onSample sample s)

/-- EV.INPUT. -/
def execEvInput (port : BitVec 1) (button : BitVec 3) (down : Bool) (s : State) : Answer :=
  .next (onInput port button down s)

/-- EV.PAUSE. -/
def execEvPause (kind : PauseKind) (ack : Bool) (chan : Byte) (s : State) : Answer :=
  .next (onPauseEvent kind ack chan s)

/-- EV.SAVESTATE. -/
def execEvSavestate (s : State) : Answer := .next (onSavestate s)

/-- EV.LOADSTATE. -/
def execEvLoadstate (img : Image) (s : State) : Answer := .next (onLoadstate img s)

/-- EV.QUIT. -/
def execEvQuit (s : State) : Answer := .next (onQuit s)

/-- EV.FRAMESTEP. -/
def execEvFramestep (s : State) : Answer := .next (onFramestep s)

/-- EV.SHOWFPS. -/
def execEvShowfps (s : State) : Answer := .next (onShowfps s)

/-- EV.SETSTEP. -/
def execEvSetstep (mode : StepMode) (s : State) : Answer := .next (onSetstep mode s)

/-- What a popped entry does (44_events R222): its handler, or the discard of an illegal one (R233). -/
def onEntry (e : EvEntry) (s : State) : State :=
  match decodeEv e with
  | .instr (.evFrame seq fb) => onFrame seq fb s
  | .instr (.evSample sample) => onSample sample s
  | .instr (.evInput port button down) => onInput port button down s
  | .instr (.evPause kind ack chan) => onPauseEvent kind ack chan s
  | .instr .evSavestate => onSavestate s
  | .instr (.evLoadstate img) => onLoadstate img s
  | .instr .evQuit => onQuit s
  | .instr .evFramestep => onFramestep s
  | .instr .evShowfps => onShowfps s
  | .instr (.evSetstep mode) => onSetstep mode s
  | _ => discardEvent s

/-- The head's handler pushes a pause word: "a legal PAUSE, SAVESTATE, LOADSTATE or QUIT" (44_events R220). -/
def pushesPause (e : EvEntry) : Bool :=
  match decodeEv e with
  | .instr (.evPause _ _ _) | .instr .evSavestate | .instr (.evLoadstate _) | .instr .evQuit => true
  | _ => false

end Sys2Proof.Machine
end

