-- ==== Sys2Proof/Machine/Consumer.lean ====
section
/-!
DEFINITION. The consumer's sequencer states (44_events R221, R222, R234-R236): one consumer step each. In a state whose
"enabled when" does not hold the consumer has no step, and the state is left as it is (00_scope R10; log 3).
-/
namespace Sys2Proof.Machine

/-- SEQ.C_IDLE (44_events R221): "The consumer has no step". -/
def execSeqCIdle (s : State) : Answer := .next s

/-- SEQ.C_FETCH (44_events R222, R220): take one event and run its handler, if its handler has room for its PQ push. -/
def execSeqCFetch (s : State) : Answer :=
  .next <|
    if s.running = false then { s with cphase := CPhase.halt }
    else
      match s.evq with
      | [] => s
      | e :: rest => if pushesPause e && !s.pqRoom then s else onEntry e { s with evq := rest }

/-- "enabled when ACK_VALID = 1 or SPHASE = HALT" (R234, R235). -/
def State.handshakeReady (s : State) : Bool := s.ackValid || s.sphase == SPhase.halt

/-- A handshake cut short: "the scheduler quit before or after acknowledging" (R234). -/
def abortHandshake (s : State) : State :=
  { s.emit (.snapReport .aborted) with
    ackValid := false
    snapStatus := .aborted
    curEv := none
    cphase := CPhase.halt }

/-- The end of a handshake that was acknowledged: report `code`, resume the scheduler only if the handshake paused it, and
take the next event (R234, R235). The resume is pushed whatever PQ holds (log 22). -/
def endHandshake (code : SnapStatus) (changed : Bool) (s : State) : State :=
  let s := { s.emit (.snapReport code) with snapStatus := code }
  let s := if changed then s.pushPq resumeWord else s
  { s with curEv := none, cphase := CPhase.fetch }

/-- A save that was acknowledged (R234). -/
def finishSave (s : State) : State :=
  let t := { s with ackValid := false }
  endHandshake .saved s.ackVal (t.emit (.snapImage (captureImage t)))

/-- SEQ.C_SAVE_ACK (44_events R234). -/
def execSeqCSaveAck (s : State) : Answer :=
  .next <|
    if s.handshakeReady = false then s
    else if s.sphase = SPhase.halt then abortHandshake s
    else finishSave s

/-- The image of the entry being handled; an entry without one cannot be here (R228) and is read as unreadable. -/
def State.curImage (s : State) : Image := ((s.curEv.bind (·.img))).getD .ioError

/-- A load that was acknowledged (R235): validate, then apply all or nothing. -/
def finishLoad (s : State) : State :=
  let t := { s with ackValid := false }
  let r := loadImage s.curImage t
  endHandshake r.1 s.ackVal r.2

/-- SEQ.C_LOAD_ACK (44_events R235). -/
def execSeqCLoadAck (s : State) : Answer :=
  .next <|
    if s.handshakeReady = false then s
    else if s.sphase = SPhase.halt then abortHandshake s
    else finishLoad s

/-- SEQ.C_HALT (44_events R236): "terminal; the consumer has no step". -/
def execSeqCHalt (s : State) : Answer := .next s

end Sys2Proof.Machine
end

