-- ==== Sys2Proof/Machine/Control.lean ====
section
/-!
DEFINITION. The CTL instructions (46_lifecycle, 40_bus R133): each completes in one host step and leaves its result in
CTL_STATUS. Errors are checked in the order of 60_exceptions R305; words that match no row are the fetch's business.
-/
namespace Sys2Proof.Machine

/-- CTL.CONFIG (46_lifecycle R280). DIV_NUM follows REGION (10_state R24). -/
def execCtlConfig (region : Region) (hasSlc : Bool) (s : State) : Answer :=
  .next <|
    if s.busy then s.setCtl .busy
    else { s with region := region, hasSlc := hasSlc, ctlStatus := .ok }

/-- CTL.MAP_ADD (40_bus R133). -/
def execCtlMapAdd (sp : Space) (dev : Byte) (lo hi : Addr) (s : State) : Answer :=
  .next <|
    if dev = 0 ∨ s.plat.hasDevice dev = false then s.setCtl .illegal
    else if s.busy then s.setCtl .busy
    else if hi < lo then s.failConstruction .mapRange
    else if (s.map sp).any (fun e => entryMeets e lo hi) then s.failConstruction .mapConflict
    else if Config.mapEntriesMax ≤ (s.map sp).length then s.failConstruction .mapFull
    else (s.setMap sp (s.map sp ++ [⟨lo, hi, dev⟩])).setCtl .ok

/-- CTL.RESET (46_lifecycle R281). -/
def execCtlReset (s : State) : Answer :=
  .next <| if s.busy then s.setCtl .busy else (doReset s).setCtl .ok

/-- CTL.START (46_lifecycle R282): battery load, reset, Running, both sequencers started. -/
def execCtlStart (s : State) : Answer :=
  .next <|
    if s.busy then s.setCtl .busy
    else if s.consFail then s.setCtl .notRunnable
    else
      { doReset { s with mapper := Config.batteryLoad s.mapper } with
        running := true
        started := true
        sphase := SPhase.top
        cphase := CPhase.fetch
        ctlStatus := .ok }

/-- CTL.CSR_READ (46_lifecycle R284, 10_state R56): a successful read leaves CTL_STATUS alone. -/
def execCtlCsrRead (n : BitVec 8) (s : State) : Answer :=
  .next <|
    match s.csr n with
    | some v => { s with ctlRdata := v }
    | none => illegalCtl s

/-- CTL.SINK_FATAL (46_lifecycle R285): the fatal entry without the HALT transfer. -/
def execCtlSinkFatal (s : State) : Answer :=
  .next <| if s.running then (fatalEntry .sinkFailure s).setCtl .ok else s.setCtl .busy

end Sys2Proof.Machine
end

