-- ==== Sys2Proof/Machine/Pause.lean ====
section
/-!
DEFINITION. The PQ instructions (43_pause), each as what it does to the state (`onX`, which PCHECK and PWAIT run on the word
they popped) and as the instruction's answer.
-/
namespace Sys2Proof.Machine

/-- What PQ.TOGGLE does (43_pause R202). -/
def onToggle (ack : Bool) (chan : Byte) (s : State) : State := applyPause .toggle ack chan s

/-- What PQ.PAUSE does (R203). -/
def onPause (ack : Bool) (chan : Byte) (s : State) : State := applyPause .pause ack chan s

/-- What PQ.UNPAUSE does (R204). -/
def onUnpause (ack : Bool) (chan : Byte) (s : State) : State := applyPause .unpause ack chan s

/-- What PQ.QUITSENT does (R205): "no change to `PAUSED`; no acknowledgement". -/
def onQuitsent (s : State) : State := s

/-- PQ.TOGGLE. -/
def execPqToggle (ack : Bool) (chan : Byte) (s : State) : Answer := .next (onToggle ack chan s)

/-- PQ.PAUSE. -/
def execPqPause (ack : Bool) (chan : Byte) (s : State) : Answer := .next (onPause ack chan s)

/-- PQ.UNPAUSE. -/
def execPqUnpause (ack : Bool) (chan : Byte) (s : State) : Answer := .next (onUnpause ack chan s)

/-- PQ.QUITSENT. -/
def execPqQuitsent (s : State) : Answer := .next (onQuitsent s)

/-- What a popped pause word does (43_pause R201). A word that is no row of 30_encoding R105 is unreachable (R106) and is
discarded with no effect, as 93_implementation_defined I11 treats it (log 17). -/
def onPauseWord (q : BitVec 16) (s : State) : State :=
  match decodePq q with
  | .instr (.pqToggle ack chan) => onToggle ack chan s
  | .instr (.pqPause ack chan) => onPause ack chan s
  | .instr (.pqUnpause ack chan) => onUnpause ack chan s
  | .instr .pqQuitsent => onQuitsent s
  | _ => s

/-- "if len(PQ) > 0 then ApplyPause(pop(PQ))" (42_scheduler R175, R176): at most one word a check. -/
def takePause (s : State) : State :=
  match s.pq with
  | [] => s
  | q :: rest => onPauseWord q { s with pq := rest }

end Sys2Proof.Machine
end

