-- ==== Sys2Proof/Machine/Scheduler.lean ====
section
/-!
DEFINITION. The scheduler's sequencer states (42_scheduler R171-R178): one scheduler step each. In a state whose "enabled
when" does not hold the scheduler has no step, and the state is left as it is (00_scope R10; log 3).
-/
namespace Sys2Proof.Machine

/-- SEQ.IDLE (42_scheduler R171): "the scheduler has no step in `IDLE`". -/
def execSeqIdle (s : State) : Answer := .next s

/-- TOP after its CPU step returned (R172, R158, 60_exceptions R303): the error path credits nothing. -/
def cpuReturned (r : CpuResult) (s : State) : State :=
  match r.err with
  | some e => fatalInTop (faultOf e) { s with cpu := r.cpu }
  | none =>
    { s with
      cpu := r.cpu
      quota := s.quota + BitVec.ofNat 32 (r.cycles.toNat * s.divNum)
      cpuCyc := s.cpuCyc + r.cycles.setWidth 64
      drainPending := r.cycles
      nmiLatch := if r.nmiTaken then false else s.nmiLatch
      sphase := SPhase.ppu }

/-- The CPU phase: `CpuStep` over CPU space, with the pending NMI and the IRQ level as they are when it begins (R172,
60_exceptions R310). -/
def cpuPhase (s : State) : State :=
  let r := runBus .cpu (Config.cpuStep s.cpu s.nmiLatch s.irqLine) s
  cpuReturned r.1 r.2

/-- SEQ.TOP (42_scheduler R172). -/
def execSeqTop (s : State) : Answer :=
  .next <|
    if s.running = false then { s with sphase := SPhase.halt }
    else if s.owesPpu then { s with sphase := SPhase.ppu }
    else if s.drainPending ≠ 0 then { s with sphase := SPhase.drain }
    else cpuPhase s

/-- A completed frame (R173 b): the FRAME event, the count, the limiter, the FrameStep pause. -/
def frameDone (pixel : Nat → Nat → Pixel) (s : State) : State :=
  let s := s.pushIfRunning (frameEntry s.frameSeq (framebufferOf s.plat pixel))
  let s := fpsLimit { s with frameSeq := s.frameSeq + 1 }
  if s.pausesOnFrame then { s with paused := true } else s

/-- What the cycle's framebuffer does, if it completed one (R173 b). -/
def frameStage (fb : Option (Nat → Nat → Pixel)) (s : State) : State :=
  match fb with
  | some pixel => frameDone pixel s
  | none => s

/-- The scanline-counter hook (R173 c, 41_interrupt_controller R159). -/
def tickMapper (trigger : Bool) (s : State) : State :=
  if s.hasSlc && trigger then { s with mapper := Config.mapperTick s.mapper } else s

/-- The pause of CycleStep and ScanlineStep (R173 e). -/
def stepPause (slBefore : BitVec 16) (s : State) : State :=
  if s.pausesOnCycle slBefore then { s with paused := true } else s

/-- One PPU cycle is paid (R173 d). -/
def payCycle (s : State) : State := { s with quota := s.quota - BitVec.ofNat 32 Config.qDen }

/-- The end of a PPU cycle (R173): a set PAUSED moves the scheduler to PWAIT. -/
def endPpuCycle (s : State) : State :=
  if s.paused then { s with pwaitRet := true, sphase := SPhase.pwait } else s

/-- PPU after its PPU step returned, in the sub-step order of 60_exceptions R312. -/
def ppuReturned (slBefore : BitVec 16) (r : PpuResult) (s : State) : State :=
  let s := nmiSample r.nmiLevel { s with ppu := r.ppu, ppuCyc := s.ppuCyc + 1 }
  let s := tickMapper (Config.ppuTrigger r.ppu) (frameStage r.fb s)
  endPpuCycle (stepPause slBefore (payCycle s))

/-- One PPU cycle: `PpuStep` over PPU space (R173). -/
def ppuCycle (s : State) : State :=
  let r := runBus .ppu (Config.ppuStep s.ppu) s
  ppuReturned s.ppu.scanline r.1 r.2

/-- "enabled when RUNNING = 0 or len(EVQ) < EVQ_DEPTH" (R173, R174). -/
def State.mayPushEvent (s : State) : Bool := !s.running || s.evqRoom

/-- SEQ.PPU (42_scheduler R173). -/
def execSeqPpu (s : State) : Answer :=
  .next <|
    if s.owesPpu = false then { s with sphase := SPhase.drain }
    else if s.mayPushEvent then ppuCycle s
    else s

/-- DRAIN after `ApuSample` returned (R174). -/
def sampleReturned (r : ApuResult) (s : State) : State :=
  let s := { s with cpu := r.cpu }
  let s := if r.produced then s.pushIfRunning (bareEntry (sampleWord r.sample)) else s
  { s with drainPending := s.drainPending - 1 }

/-- SEQ.DRAIN (42_scheduler R174). -/
def execSeqDrain (s : State) : Answer :=
  .next <|
    if s.drainPending = 0 then { s with sphase := SPhase.pcheck }
    else if s.mayPushEvent then sampleReturned (Config.apuSample s.cpu) s
    else s

/-- PCHECK after its check (R175). -/
def checkedPause (s : State) : State :=
  if s.paused then { s with pwaitRet := false, sphase := SPhase.pwait } else { s with sphase := SPhase.exitchk }

/-- SEQ.PCHECK (42_scheduler R175). -/
def execSeqPcheck (s : State) : Answer := .next (checkedPause (takePause s))

/-- PWAIT after it took what waited (R176). -/
def waitedPause (s : State) : State :=
  if s.running = false then { s with sphase := SPhase.halt }
  else if s.paused then s
  else { s with sphase := if s.pwaitRet then SPhase.ppu else SPhase.exitchk }

/-- SEQ.PWAIT (42_scheduler R176): "enabled when len(PQ) > 0 or RUNNING = 0". -/
def execSeqPwait (s : State) : Answer :=
  .next <| if s.pq = [] ∧ s.running = true then s else waitedPause (takePause s)

/-- SEQ.EXITCHK (42_scheduler R177). -/
def execSeqExitchk (s : State) : Answer :=
  .next { s with sphase := if s.running then SPhase.top else SPhase.halt }

/-- SEQ.HALT (42_scheduler R178): "The scheduler has no step; nothing leaves `HALT`". -/
def execSeqHalt (s : State) : Answer := .next s

end Sys2Proof.Machine
end

