-- ==== Sys2Proof/Machine/Dispatch.lean ====
section
/-!
DEFINITION. One arm per instruction: the call of its meaning.
-/
namespace Sys2Proof.Machine

def exec (i : Instr) (s : State) : Host.Outcome State Fault Refusal :=
  match i with
  | .evFrame seq fb => Sys2Proof.Machine.execEvFrame seq fb s
  | .evSample sample => Sys2Proof.Machine.execEvSample sample s
  | .evInput port button down => Sys2Proof.Machine.execEvInput port button down s
  | .evPause kind ack chan => Sys2Proof.Machine.execEvPause kind ack chan s
  | .evSavestate => Sys2Proof.Machine.execEvSavestate s
  | .evLoadstate img => Sys2Proof.Machine.execEvLoadstate img s
  | .evQuit => Sys2Proof.Machine.execEvQuit s
  | .evFramestep => Sys2Proof.Machine.execEvFramestep s
  | .evShowfps => Sys2Proof.Machine.execEvShowfps s
  | .evSetstep mode => Sys2Proof.Machine.execEvSetstep mode s
  | .pqToggle ack chan => Sys2Proof.Machine.execPqToggle ack chan s
  | .pqPause ack chan => Sys2Proof.Machine.execPqPause ack chan s
  | .pqUnpause ack chan => Sys2Proof.Machine.execPqUnpause ack chan s
  | .pqQuitsent => Sys2Proof.Machine.execPqQuitsent s
  | .ctlConfig region hasSlc => Sys2Proof.Machine.execCtlConfig region hasSlc s
  | .ctlMapAdd space dev lo hi => Sys2Proof.Machine.execCtlMapAdd space dev lo hi s
  | .ctlReset => Sys2Proof.Machine.execCtlReset s
  | .ctlStart => Sys2Proof.Machine.execCtlStart s
  | .ctlCsrRead n => Sys2Proof.Machine.execCtlCsrRead n s
  | .ctlSinkFatal => Sys2Proof.Machine.execCtlSinkFatal s
  | .busRd space addr wdata => Sys2Proof.Machine.execBusRd space addr wdata s
  | .busWr space addr wdata => Sys2Proof.Machine.execBusWr space addr wdata s
  | .seqIdle => Sys2Proof.Machine.execSeqIdle s
  | .seqTop => Sys2Proof.Machine.execSeqTop s
  | .seqPpu => Sys2Proof.Machine.execSeqPpu s
  | .seqDrain => Sys2Proof.Machine.execSeqDrain s
  | .seqPcheck => Sys2Proof.Machine.execSeqPcheck s
  | .seqPwait => Sys2Proof.Machine.execSeqPwait s
  | .seqExitchk => Sys2Proof.Machine.execSeqExitchk s
  | .seqHalt => Sys2Proof.Machine.execSeqHalt s
  | .seqCIdle => Sys2Proof.Machine.execSeqCIdle s
  | .seqCFetch => Sys2Proof.Machine.execSeqCFetch s
  | .seqCSaveAck => Sys2Proof.Machine.execSeqCSaveAck s
  | .seqCLoadAck => Sys2Proof.Machine.execSeqCLoadAck s
  | .seqCHalt => Sys2Proof.Machine.execSeqCHalt s

end Sys2Proof.Machine
end

