-- ==== Sys2Proof/Machine/Fetch.lean ====
section
/-!
DEFINITION. Which instruction the next step runs, and the state it runs it on: the multiplexer's request, the scheduler's
or the consumer's sequencer, or the host's port, by whose turn it is. All that `step` needs around `exec` is here.
-/
namespace Sys2Proof.Machine

/-- What a step has to do. -/
inductive Fetched where
  /-- run `i` on `s` -/
  | run (i : Instr) (s : State)
  /-- nothing to run; the step leaves `s` -/
  | done (s : State)
  /-- the agent's sequencer holds a reserved code -/
  | stuck (f : Fault)

/-- The turn goes to the agent the schedule's free choice names next (60_exceptions R314; log 2). -/
def State.pass (s : State) : State := { s with turn := Config.nextAgent s.tick, tick := s.tick + 1 }

/-- What a sequencer's code makes of a turn: its instruction, or the fault of a reserved code (30_encoding R114). -/
def fetchPhase (d : Decoded) (f : Fault) (s : State) : Fetched :=
  match d with
  | .instr i => .run i s.pass
  | .reject _ => .stuck f

/-- The host port's push (44_events R237), when EVQ has room: only the scheduler produces FRAME and SAMPLE; every other
word, legal or not, is pushed unchanged. -/
def hostPush (w : BitVec 32) (img : Option Image) (s : State) : State :=
  if w.extractLsb' 28 4 = 0x1#4 ∨ w.extractLsb' 28 4 = 0x2#4 then { s with hostRefused := true }
  else s.pushEv ⟨w, none, img⟩

/-- The oldest command at the host's ports that can be taken, and what then waits there: with no room on EVQ a push waits
(44_events R239), and a control word behind it does not, for CTL is a port of its own that a full EVQ does not block
(70_reset_and_hazards R339: "the host may still push (while there is room) and read CSRs"; log 4). -/
def takeCmd (room : Bool) : List HostCmd → Option (HostCmd × List HostCmd)
  | [] => none
  | .ctl c :: rest => some (.ctl c, rest)
  | .push w img :: rest =>
    if room then some (.push w img, rest)
    else
      match takeCmd room rest with
      | some (c, left) => some (c, .push w img :: left)
      | none => none

/-- A host command: a control word is decoded, an illegal one reported (30_encoding R109); a push waits at the port, behind
those that wait there, while EVQ has no room (44_events R239). -/
def fetchCmd (c : HostCmd) (s : State) : Fetched :=
  match c with
  | .ctl word =>
    match decodeCtl word with
    | .instr i => .run i s
    | .reject _ => .done (illegalCtl s)
  | .push w img => .done (if s.evqRoom then hostPush w img s else { s with hostPort := s.hostPort ++ [c] })

/-- A host step: the oldest command at the host's ports that can be taken, or, where there is none, the one the host's free
choice names (log 4). -/
def fetchHost (s : State) : Fetched :=
  match takeCmd s.evqRoom s.hostPort with
  | some (c, rest) => fetchCmd c { s.pass with hostPort := rest }
  | none =>
    match Config.hostInput s.tick with
    | some c => fetchCmd c s.pass
    | none => .done s.pass

/-- What the next step has to do. A request standing at the multiplexer is served before any agent steps (log 14). -/
def fetch (s : State) : Fetched :=
  match s.busReq with
  | some b => .run (decodeBus b) { s with busReq := none }
  | none =>
    match s.turn with
    | .scheduler => fetchPhase (decodeSphase s.sphase) .reservedSphase s
    | .consumer => fetchPhase (decodeCphase s.cphase) .reservedCphase s
    | .host => fetchHost s

/-- Put words where the next step fetches them (log 5): a bus request at the multiplexer, a control word at the host's port, a
sequencer code in its sequencer, a pause word at the head of PQ with the scheduler about to check it, an event entry at the
head of EVQ with the running consumer about to fetch it; and the turn to the agent that reads them. -/
def State.placed (s : State) : Words → State
  | .bus b => { s with busReq := some b }
  | .ctl c => { s with busReq := none, turn := .host, hostPort := .ctl c :: s.hostPort }
  | .sphase p => { s with busReq := none, turn := .scheduler, sphase := p }
  | .cphase p => { s with busReq := none, turn := .consumer, cphase := p }
  | .pq q => { s with busReq := none, turn := .scheduler, sphase := SPhase.pcheck, pq := q :: s.pq }
  | .ev e => { s with busReq := none, turn := .consumer, cphase := CPhase.fetch, running := true, evq := e :: s.evq }

end Sys2Proof.Machine
end

