-- ==== Sys2Proof/Machine/Step.lean ====
section
/-!
DEFINITION. One step of the block: fetch and run.
-/
namespace Sys2Proof.Machine

/-- One atomic step of one agent (20_memory R90). -/
def step (s : State) : Host.Outcome State Fault Refusal :=
  match fetch s with
  | .run i t => exec i t
  | .done t => .next t
  | .stuck f => .fault f

/-- `s` with a word of the opcode table stored where `step` fetches its next instruction (log 5). -/
def State.withFetchWord (s : State) (nbits w : Nat) : State := s.placed (tableWords nbits w)

end Sys2Proof.Machine
end

