-- ==== Sys2Proof/Safety.lean ====
section
/-!
DEFINITION. What counts as a sound state and a live agent: the invariants of 10_state and 60_exceptions in the words claims
use, the "enabled when" columns of 42_scheduler R170 and 44_events R220, and the repetition of one instruction.
-/
namespace Sys2Proof.Machine

/-! ## Invariants, one predicate each -/

/-- The sequencers hold codes of the table: "values 8–15 are reserved and never reached" (10_state R26), "values 5–7 reserved
and never reached" (R40). -/
def CodesLegal (s : State) : Prop := s.sphase.toNat ≤ 7 ∧ s.cphase.toNat ≤ 4

/-- Before START nothing runs and nothing has been counted; after it no sequencer is in its idle state; a fatal error has ended
the run (10_state R21, R26, R31, R40, 60_exceptions R302, R326). -/
structure Lifecycle (s : State) : Prop where
  preStart : s.started = false → s.running = false ∧ s.fault = .none ∧ s.sphase = SPhase.idle ∧ s.cphase = CPhase.idle ∧
    s.pq = [] ∧ s.quota = 0 ∧ s.cpuCyc = 0 ∧ s.ppuCyc = 0
  running : s.started = true → s.sphase ≠ SPhase.idle ∧ s.cphase ≠ CPhase.idle
  faulted : s.fault ≠ .none → s.running = false

/-- "`trunc_64(CPU_CYC × DIV_NUM) = trunc_64(PPU_CYC × Q_DEN + QUOTA)`" (10_state R51) and the bound of QUOTA (R23). -/
def RatioExact (s : State) : Prop :=
  (s.cpuCyc.toNat * s.divNum) % 2 ^ 64 = (s.ppuCyc.toNat * 5 + s.quota.toNat) % 2 ^ 64 ∧
    s.quota.toNat ≤ 4 + 65535 * s.divNum

/-- "the only scheduler state with `PAUSED = 1` at its start is `PWAIT`" (42_scheduler R183); a halted scheduler may keep the
bit (95_test_vectors P4). -/
def PauseSound (s : State) : Prop :=
  (s.paused = true → s.sphase = SPhase.pwait ∨ s.sphase = SPhase.halt) ∧ (s.sphase = SPhase.pwait → s.paused = true)

/-- A pause word that asks for an acknowledgement on channel 0, the consumer's mailbox (30_encoding R105). -/
def asksMailbox (q : BitVec 16) : Bool := q.getLsbD 2 && q.extractLsb' 8 8 == 0

/-- The save and load handshake (44_events R227, R234, R235, 70_reset_and_hazards R340): outside one the mailbox is empty and
nobody asks for it; inside one either the request still waits, last in PQ, or it was acknowledged, PQ is empty and the
scheduler is in PWAIT or HALT. -/
structure HandshakeSound (s : State) : Prop where
  outside : s.cphase ≠ CPhase.saveAck → s.cphase ≠ CPhase.loadAck → s.ackValid = false ∧
    ((∀ q ∈ s.pq, asksMailbox q = false) ∨ (s.cphase = CPhase.halt ∧ s.sphase = SPhase.halt))
  inside : s.cphase = CPhase.saveAck ∨ s.cphase = CPhase.loadAck →
    (s.ackValid = false ∧ ∃ pre, s.pq = pre ++ [handshakeWord] ∧ ∀ q ∈ pre, asksMailbox q = false) ∨
      (s.ackValid = true ∧ s.pq = [] ∧ (s.sphase = SPhase.pwait ∨ s.sphase = SPhase.halt))

/-- "Whenever `SPHASE ∈ {DRAIN, PCHECK}`, `QUOTA < Q_DEN`" (10_state R52). -/
def QuotaSettled (s : State) : Prop :=
  s.sphase = SPhase.drain ∨ s.sphase = SPhase.pcheck → s.quota.toNat < 5

/-- A map no command can break: at most 32 entries, each a range of a device of the set, no two meeting (10_state R35,
40_bus R133). -/
structure MapSound (p : Platform) (m : List MapEntry) : Prop where
  few : m.length ≤ 32
  ranges : ∀ e ∈ m, e.lo ≤ e.hi ∧ e.dev ≠ 0 ∧ p.hasDevice e.dev = true
  apart : m.Pairwise fun e f => e.hi < f.lo ∨ f.hi < e.lo

/-- Both maps are sound. -/
def MapsSound (s : State) : Prop := MapSound s.plat s.mapCpu ∧ MapSound s.plat s.mapPpu

/-- `fb` "is present exactly for FRAME entries and holds the completed framebuffer, an `FB_W × FB_H` array" (10_state R38). -/
def EntrySound (p : Platform) (e : EvEntry) : Prop :=
  (e.fb.isSome = true ↔ e.word.extractLsb' 28 4 = 0x1#4) ∧
    ∀ fb, e.fb = some fb → fb.rows.length = p.fbH ∧ ∀ r ∈ fb.rows, r.length = p.fbW

/-- Every event entry is sound, and no illegal pause word stands in PQ (30_encoding R106). -/
def QueuesSound (s : State) : Prop :=
  (∀ e ∈ s.evq, EntrySound s.plat e) ∧ ∀ q ∈ s.pq, ∃ i, decodePq q = .instr i

/-- "`CUR_EV` holds the EVQ entry being handled while `CPHASE ∈ {C_SAVE_ACK, C_LOAD_ACK}` (none otherwise)" (10_state R40). -/
structure CurEvSound (s : State) : Prop where
  save : s.cphase = CPhase.saveAck → s.curEv = some ⟨0x50000000, none, none⟩
  load : s.cphase = CPhase.loadAck → ∃ img, s.curEv = some ⟨0x60000000, none, some img⟩
  other : s.cphase ≠ CPhase.saveAck → s.cphase ≠ CPhase.loadAck → s.curEv = none

/-- No bus request stands between steps (40_bus R136) and the device store is in its canonical form. -/
def PortsQuiet (s : State) : Prop := s.busReq = none ∧ devWf s.dev = true

/-! ## Legal words, by the masks and matches of the tables -/

/-- An event entry that 30_encoding R104 calls legal, by the rows of R103. -/
def eventLegal (e : EvEntry) : Prop :=
  (e.fb.isSome = true ↔ e.word.extractLsb' 28 4 = 0x1#4) ∧ (e.img.isSome = true ↔ e.word.extractLsb' 28 4 = 0x6#4) ∧
    (e.word &&& 0xF0000000#32 = 0x10000000#32 ∨ e.word &&& 0xFFFF0000#32 = 0x20000000#32 ∨
      e.word &&& 0xFFFFFFE0#32 = 0x30000000#32 ∨
      (e.word &&& 0xFFFF00F8#32 = 0x40000000#32 ∧ e.word.extractLsb' 0 2 ≠ 0b11#2 ∧
        (e.word.getLsbD 2 = true → e.word.extractLsb' 8 8 ≠ 0#8) ∧
        (e.word.getLsbD 2 = false → e.word.extractLsb' 8 8 = 0#8)) ∨
      e.word = 0x50000000#32 ∨ e.word = 0x60000000#32 ∨ e.word = 0x70000000#32 ∨ e.word = 0x80000000#32 ∨
      e.word = 0x90000000#32 ∨ e.word &&& 0xFFFFFFFC#32 = 0xA0000000#32)

/-- A pause word of a row of 30_encoding R105. -/
def pauseLegal (q : BitVec 16) : Prop :=
  q &&& 0x00FB#16 = 0x0000#16 ∨ q &&& 0x00FB#16 = 0x0001#16 ∨ q &&& 0x00FB#16 = 0x0002#16 ∨ q = 0x0003#16

/-- A control word of a row of 30_encoding R107. -/
def controlLegal (c : BitVec 64) : Prop :=
  c &&& 0xFFFFFFFFFFFFFFFC#64 = 0x1000000000000000#64 ∨ c &&& 0xFE00FFFF00000000#64 = 0x2000000000000000#64 ∨
    c = 0x3000000000000000#64 ∨ c = 0x4000000000000000#64 ∨ c &&& 0xFFFFFFFFFFFFFF00#64 = 0x5000000000000000#64 ∨
    c = 0x6000000000000000#64

/-! ## Which agent has a step -/

/-- "enabled when" of the scheduler's sequencer states (42_scheduler R170); reserved codes have no step (R114). -/
def State.schedulerEnabled (s : State) : Bool :=
  if s.sphase = SPhase.top ∨ s.sphase = SPhase.pcheck ∨ s.sphase = SPhase.exitchk then true
  else if s.sphase = SPhase.ppu then !s.owesPpu || !s.running || s.evqRoom
  else if s.sphase = SPhase.drain then s.drainPending == 0 || !s.running || s.evqRoom
  else if s.sphase = SPhase.pwait then !s.pq.isEmpty || !s.running
  else false

/-- "enabled when" of the consumer's sequencer states (44_events R220). -/
def State.consumerEnabled (s : State) : Bool :=
  if s.cphase = CPhase.fetch then
    !s.running || match s.evq with
      | [] => false
      | e :: _ => !pushesPause e || s.pqRoom
  else if s.cphase = CPhase.saveAck ∨ s.cphase = CPhase.loadAck then s.ackValid || s.sphase == SPhase.halt
  else false

/-- A host command waits while it is a push and EVQ has no room (44_events R239); a control word never does. -/
def Blocked (s : State) (c : HostCmd) : Prop := (∃ w img, c = .push w img) ∧ s.evqRoom = false

/-- The next step is the host's and takes command `c`, with `port` left waiting at its ports: the oldest command that is not
blocked, or, where every one is, the one the host's free choice names (the model's ports and free choice: log 2, 4, 14). -/
def HostTakes (s : State) (c : HostCmd) (port : List HostCmd) : Prop :=
  s.busReq = none ∧ s.turn = .host ∧
    ((∃ before rest, s.hostPort = before ++ c :: rest ∧ port = before ++ rest ∧ (∀ b ∈ before, Blocked s b) ∧ ¬Blocked s c) ∨
      ((∀ b ∈ s.hostPort, Blocked s b) ∧ Config.hostInput s.tick = some c ∧ port = s.hostPort))

/-! ## Runs of instructions -/

/-- Run the instructions one after another, stopping where one stops. -/
def execAll : List Instr → State → Answer
  | [], s => .next s
  | i :: rest, s =>
    match exec i s with
    | .next t => execAll rest t
    | .fault f => .fault f
    | .refused r => .refused r

/-- `n` scheduler steps in a row, no other agent between them (one of the schedules of 60_exceptions R314). -/
def schedulerRun : Nat → State → Answer
  | 0, s => .next s
  | n + 1, s =>
    match decodeSphase s.sphase with
    | .reject _ => .fault .reservedSphase
    | .instr i =>
      match exec i s with
      | .next t => schedulerRun n t
      | .fault f => .fault f
      | .refused r => .refused r

/-- A pause request or the quit sentinel (43_pause). -/
def isPauseInstr : Instr → Bool
  | .pqToggle _ _ | .pqPause _ _ | .pqUnpause _ _ | .pqQuitsent => true
  | _ => false

/-- A toggle, the request R207 counts. -/
def isToggle : Instr → Bool
  | .pqToggle _ _ => true
  | _ => false

/-- A request that sets PAUSED whatever it was: the level it sets (43_pause R207). -/
def pauseLevel : Instr → Option Bool
  | .pqPause _ _ => some true
  | .pqUnpause _ _ => some false
  | _ => none

/-! ## Reset of the devices -/

/-- `dev` is the device store a reset leaves of `s`: "unchanged (except as `CpuReset`/`PpuReset` change their own devices)"
(10_state R53, R58). The PPU's own device is part of `ppu_state`, not of the store; which devices are the CPU's own is the
platform's, and the store's canonical form the model's (log 9, log 10, log 32). -/
def DevicesReset (s : State) (dev : DevStore) : Prop :=
  (∀ k : Nat, (∀ d : Byte, d.toNat = k → s.plat.kindOf d ≠ .cpuOwned) → devGet dev k = devGet s.dev k) ∧
    (devWf s.dev = true → devWf dev = true ∧ ∀ d : Byte, s.plat.kindOf d = .cpuOwned →
      devGet dev d.toNat = Config.cpuResetDev d s.cpu (devGet s.dev d.toNat))

/-! ## Equal engines -/

/-- Two blocks that a save and a load cannot tell apart: the fields of the snapshot record are equal, and so are the
configuration and the scheduler's own position and pause words (45_snapshot R260, R266). Queues of events, outputs, status
and the consumer may differ. -/
structure SameEngine (s u : State) : Prop where
  record : capture s = capture u
  config : s.region = u.region ∧ s.hasSlc = u.hasSlc ∧ s.mapCpu = u.mapCpu ∧ s.mapPpu = u.mapPpu ∧ s.plat = u.plat
  position : s.running = u.running ∧ s.sphase = u.sphase ∧ s.pwaitRet = u.pwaitRet ∧ s.paused = u.paused ∧ s.pq = u.pq

end Sys2Proof.Machine
end

