-- ==== Sys2Proof/Certificates/Slice0/Obligations.lean ====
section
/-!
DEFINITION. The statements for the provers, each from numbered rules of spec/ (OBLIGATIONS.json names them).
-/
section
open Sys2Proof Sys2Proof.Machine

/-! ## Encoding -/

/-- Every well-formed instruction's word decodes to it, with every operand at every value (30_encoding R103-R113). -/
def Obligations.DecodeEncode : Prop := ∀ i : Instr, i.wellFormed = true → decode (encode i) = .instr i

/-- A word has one meaning: whatever decodes is the word of what it decodes to, and that instruction is well-formed. -/
def Obligations.EncodeDecode : Prop := ∀ (w : Words) (i : Instr), decode w = .instr i → encode i = w ∧ i.wellFormed = true

/-- The decoder takes exactly the event-queue entries 30_encoding R104 calls legal, by the masks and matches of R103. -/
def Obligations.EventLegalIffRow : Prop := ∀ e : EvEntry, (∃ i, decodeEv e = .instr i) ↔ eventLegal e

/-- Which pause words and control words are legal (30_encoding R105, R107, R109): exactly the rows of their tables; every
bus request is (R110). -/
def Obligations.CommandLegalIffRow : Prop :=
  (∀ q : BitVec 16, (∃ i, decodePq q = .instr i) ↔ pauseLegal q) ∧
  (∀ c : BitVec 64, (∃ i, decodeCtl c = .instr i) ↔ controlLegal c) ∧
  ∀ b : BitVec 26, ∃ i, decode (.bus b) = .instr i ∧
    (b &&& 0x1000000#26 = 0#26 → ∃ sp addr v, i = .busRd sp addr v) ∧
    (b &&& 0x1000000#26 = 0x1000000#26 → ∃ sp addr v, i = .busWr sp addr v)

/-- The worked encodings of 30_encoding R117, read both ways. -/
def Obligations.WorkedEncodings : Prop :=
  encode (.evInput 1 3 true) = .ev ⟨0x30000017, none, none⟩ ∧
  decode (.ev ⟨0x30000017, none, none⟩) = .instr (.evInput 1 3 true) ∧
  encode (.evPause .unpause true 5) = .ev ⟨0x40000506, none, none⟩ ∧
  decode (.ev ⟨0x40000506, none, none⟩) = .instr (.evPause .unpause true 5) ∧
  encode (.evSetstep .cycleStep) = .ev ⟨0xA0000001, none, none⟩ ∧
  decode (.ev ⟨0xA0000001, none, none⟩) = .instr (.evSetstep .cycleStep) ∧
  encode (.evSample (BitVec.ofInt 16 (-2))) = .ev ⟨0x2000FFFE, none, none⟩ ∧
  decode (.ev ⟨0x2000FFFE, none, none⟩) = .instr (.evSample (BitVec.ofInt 16 (-2))) ∧
  encode (.pqPause true 0) = .pq 0x0005 ∧ decode (.pq 0x0005) = .instr (.pqPause true 0) ∧
  encode .pqQuitsent = .pq 0x0003 ∧ decode (.pq 0x0003) = .instr .pqQuitsent ∧
  encode (.ctlMapAdd .cpu 3 0x4016 0x4017) = .ctl 0x2003000040164017 ∧
  decode (.ctl 0x2003000040164017) = .instr (.ctlMapAdd .cpu 3 0x4016 0x4017) ∧
  encode (.ctlConfig .pal true) = .ctl 0x1000000000000003 ∧
  decode (.ctl 0x1000000000000003) = .instr (.ctlConfig .pal true) ∧
  encode (.busWr .cpu 0x2000 0x80) = .bus 0x1200080 ∧ decode (.bus 0x1200080) = .instr (.busWr .cpu 0x2000 0x80)

/-! ## Events -/

/-- FRAME and SAMPLE deliver, FRAMESTEP and SETSTEP set STEP_MODE, SHOWFPS toggles SHOW_FPS; nothing else changes
(44_events R223, R224, R230-R232). -/
def Obligations.SimpleEventsComplete : Prop :=
  ∀ (s : State) (seq : BitVec 28) (fb : Framebuffer) (smp : BitVec 16) (mode : StepMode),
    exec (.evFrame seq fb) s = .next { s with out := s.out ++ [.videoFrame seq fb s.showFps] } ∧
    exec (.evSample smp) s = .next { s with out := s.out ++ [.audioSample smp.toInt] } ∧
    exec .evFramestep s = .next { s with stepMode := .frameStep } ∧
    exec .evShowfps s = .next { s with showFps := !s.showFps } ∧
    exec (.evSetstep mode) s = .next { s with stepMode := mode }

/-- INPUT writes one button of one port and nothing else (44_events R225). -/
def Obligations.InputWritesOneButton : Prop :=
  ∀ (s : State) (port : BitVec 1) (button : BitVec 3) (down : Bool), ∃ t,
    exec (.evInput port button down) s = .next t ∧ t = { s with ctrl0 := t.ctrl0, ctrl1 := t.ctrl1 } ∧
    (∀ b < 8, t.ctrl0.getLsbD b = if port = 0 ∧ b = button.toNat then down else s.ctrl0.getLsbD b) ∧
    ∀ b < 8, t.ctrl1.getLsbD b = if port = 1 ∧ b = button.toNat then down else s.ctrl1.getLsbD b

/-- PAUSE pushes `(chan << 8) | (ack << 2) | kind` on PQ, which the scheduler reads as that request (44_events R226,
30_encoding R106). -/
def Obligations.PauseEventForwarded : Prop :=
  ∀ (s : State) (kind : PauseKind) (ack : Bool) (chan : Byte), ∃ q : BitVec 16,
    exec (.evPause kind ack chan) s = .next { s with pq := s.pq ++ [q] } ∧
    q.extractLsb' 8 8 = chan ∧ q.extractLsb' 3 5 = 0#5 ∧ q.getLsbD 2 = ack ∧
    q.extractLsb' 0 2 = (match kind with | .toggle => 0b00#2 | .pause => 0b01#2 | .unpause => 0b10#2) ∧
    decodePq q = .instr (match kind with
      | .toggle => .pqToggle ack chan
      | .pause => .pqPause ack chan
      | .unpause => .pqUnpause ack chan)

/-- SAVESTATE and LOADSTATE ask for an acknowledged pause and wait; QUIT clears RUNNING and sends the sentinel (44_events
R227-R229). -/
def Obligations.HandshakeAndQuitEvents : Prop :=
  ∀ (s : State) (img : Image),
    exec .evSavestate s = .next { s with
      pq := s.pq ++ [0x0005], curEv := some ⟨0x50000000, none, none⟩, cphase := 0b010 } ∧
    exec (.evLoadstate img) s = .next { s with
      pq := s.pq ++ [0x0005], curEv := some ⟨0x60000000, none, some img⟩, cphase := 0b011 } ∧
    exec .evQuit s = .next { s with pq := s.pq ++ [0x0003], running := false }

/-- C_FETCH pops the head and runs its instruction, when the handler has room for its push (44_events R222, R220). -/
def Obligations.FetchRunsHandler : Prop :=
  ∀ (s : State) (e : EvEntry) (rest : List EvEntry) (i : Instr),
    s.running = true → s.evq = e :: rest → decodeEv e = .instr i →
    ((∃ k ack chan, i = .evPause k ack chan) ∨ i = .evSavestate ∨ (∃ img, i = .evLoadstate img) ∨ i = .evQuit →
      s.pqRoom = true) →
    ∃ t, exec i { s with evq := rest } = .next t ∧ exec .seqCFetch s = .next t

/-- An illegal entry is popped and discarded: EV_ILLEGAL, and nothing else (44_events R233). -/
def Obligations.IllegalEventDiscarded : Prop :=
  ∀ (s : State) (e : EvEntry) (rest : List EvEntry),
    s.running = true → s.evq = e :: rest → ¬eventLegal e →
    exec .seqCFetch s = .next { s with evq := rest, evIllegal := true }

/-- C_FETCH halts the consumer once RUNNING is 0; it has no step on an empty EVQ, nor where its handler has no room on PQ
(44_events R220, R222, R239). That a turn without a step passes and leaves the state as it is, is the model's (DEDUCED, log
3). -/
def Obligations.FetchQuitsOrWaits : Prop :=
  ∀ s : State,
    (s.running = false → exec .seqCFetch s = .next { s with cphase := 0b100 }) ∧
    (s.running = true → s.evq = [] → exec .seqCFetch s = .next s) ∧
    (s.running = true → s.pqRoom = false → ∀ e rest, s.evq = e :: rest →
      ((∃ k ack chan, decodeEv e = .instr (.evPause k ack chan)) ∨ decodeEv e = .instr .evSavestate ∨
        (∃ img, decodeEv e = .instr (.evLoadstate img)) ∨ decodeEv e = .instr .evQuit) →
      exec .seqCFetch s = .next s)

/-! ## The save and load handshake -/

/-- C_SAVE_ACK of an acknowledged save: the image, the report, the resume if the handshake paused, and nothing else
(44_events R234, 45_snapshot R260-R262). That the codec gives the `state` entry and `Capture()` the image emitted, and the name
of an encoded record's bytes, are the model's choices (log 31, log 13). -/
def Obligations.SaveCompletes : Prop :=
  ∀ s : State, s.ackValid = true → s.sphase ≠ 0x7 →
    exec .seqCSaveAck s = .next { s with
      ackValid := false
      out := s.out ++ [
        .snapImage (.archive (some ⟨"0.2"⟩) (some (.encoded
          { cpu := s.cpu, ppu := s.ppu, mapper := s.mapper, ctrl0 := s.ctrl0, ctrl1 := s.ctrl1, dev := s.dev,
            quota := s.quota, stepMode := s.stepMode, drainPending := s.drainPending, cpuCyc := s.cpuCyc,
            ppuCyc := s.ppuCyc, frameSeq := s.frameSeq, nmiLatch := s.nmiLatch, nmiPrev := s.nmiPrev,
            openBusCpu := s.openBusCpu, openBusPpu := s.openBusPpu }))),
        .snapReport .saved]
      snapStatus := .saved
      pq := if s.ackVal then s.pq ++ [0x0002] else s.pq
      curEv := none
      cphase := 0b001 }

/-- C_LOAD_ACK of an acknowledged load whose image passes every check writes every field of the record at once (44_events
R235, 45_snapshot R263, R264). The record's device states stand in canonical form: the model's choice, log 24. -/
def Obligations.LoadCompletes : Prop :=
  ∀ (s : State) (e : EvEntry) (b : SnapBytes) (r : SnapRecord),
    s.ackValid = true → s.sphase ≠ 0x7 → s.curEv = some e → e.img = some (.archive (some ⟨"0.2"⟩) (some b)) →
    snapDecode b = some r →
    (r.cpuCyc.toNat * s.divNum) % 2 ^ 64 = (r.ppuCyc.toNat * 5 + r.quota.toNat) % 2 ^ 64 →
    r.quota.toNat ≤ 4 + 65535 * s.divNum →
    exec .seqCLoadAck s = .next { s with
      cpu := r.cpu, ppu := r.ppu, mapper := r.mapper, ctrl0 := r.ctrl0, ctrl1 := r.ctrl1, dev := devNorm r.dev,
      quota := r.quota, stepMode := r.stepMode, drainPending := r.drainPending, cpuCyc := r.cpuCyc, ppuCyc := r.ppuCyc,
      frameSeq := r.frameSeq, nmiLatch := r.nmiLatch, nmiPrev := r.nmiPrev, openBusCpu := r.openBusCpu,
      openBusPpu := r.openBusPpu
      ackValid := false
      out := s.out ++ [.snapReport .loaded]
      snapStatus := .loaded
      pq := if s.ackVal then s.pq ++ [0x0002] else s.pq
      curEv := none
      cphase := 0b001 }

/-- A load whose image fails a check reports the first failure and changes nothing of the engine (45_snapshot R263,
60_exceptions R307): ERR_IO, ERR_VERSION, ERR_MISSING, ERR_DECODE in that order. -/
def Obligations.LoadFailsClosed : Prop :=
  ∀ (s : State) (e : EvEntry) (img : Image) (code : SnapStatus),
    s.ackValid = true → s.sphase ≠ 0x7 → s.curEv = some e → e.img = some img →
    ((img = .ioError ∧ code = .errIo) ∨
      (∃ info st, img = .archive info st ∧ info ≠ some ⟨"0.2"⟩ ∧ code = .errVersion) ∨
      (img = .archive (some ⟨"0.2"⟩) none ∧ code = .errMissing) ∨
      (∃ b, img = .archive (some ⟨"0.2"⟩) (some b) ∧ snapDecode b = none ∧ code = .errDecode) ∨
      (∃ b r, img = .archive (some ⟨"0.2"⟩) (some b) ∧ snapDecode b = some r ∧
        ((r.cpuCyc.toNat * s.divNum) % 2 ^ 64 ≠ (r.ppuCyc.toNat * 5 + r.quota.toNat) % 2 ^ 64 ∨
          4 + 65535 * s.divNum < r.quota.toNat) ∧ code = .errDecode)) →
    exec .seqCLoadAck s = .next { s with
      ackValid := false
      out := s.out ++ [.snapReport code]
      snapStatus := code
      pq := if s.ackVal then s.pq ++ [0x0002] else s.pq
      curEv := none
      cphase := 0b001 }

/-- Version gating (45_snapshot R267). -/
def Obligations.VersionGate : Prop :=
  ∀ (s : State) (e : EvEntry) (info : Option SnapMeta) (st : Option SnapBytes),
    s.ackValid = true → s.sphase ≠ 0x7 → s.curEv = some e → e.img = some (.archive info st) →
    (∀ m, info = some m → m.version ≠ "0.2") →
    ∃ t, exec .seqCLoadAck s = .next t ∧ t.snapStatus = .errVersion ∧ t.out = s.out ++ [.snapReport .errVersion] ∧
      capture t = capture s

/-- A handshake waits for its acknowledgement, and is aborted once the scheduler has halted (44_events R234, R235). That a turn
without a step passes and leaves the state as it is, is the model's (DEDUCED, log 3). -/
def Obligations.HandshakeWaitsOrAborts : Prop :=
  ∀ (s : State) (i : Instr), i = .seqCSaveAck ∨ i = .seqCLoadAck →
    (s.ackValid = false → s.sphase ≠ 0x7 → exec i s = .next s) ∧
    (s.sphase = 0x7 → exec i s = .next { s with
      ackValid := false
      snapStatus := .aborted
      out := s.out ++ [.snapReport .aborted]
      curEv := none
      cphase := 0b100 })

/-- Save, then load into a block of the same region: every captured field is back (45_snapshot R262-R264, the engine's part of
R266). -/
def Obligations.SnapshotRoundTrip : Prop :=
  ∀ (s t u : State) (img : Image),
    s.ackValid = true → s.sphase ≠ 0x7 → RatioExact s → PortsQuiet s → exec .seqCSaveAck s = .next t →
    t.out = s.out ++ [.snapImage img, .snapReport .saved] →
    u.ackValid = true → u.sphase ≠ 0x7 → u.region = s.region → u.curEv = some ⟨0x60000000, none, some img⟩ →
    ∃ v, exec .seqCLoadAck u = .next v ∧ v.snapStatus = .loaded ∧ capture v = capture s

/-- Two engines that agree on the snapshot record, on the configuration and on the scheduler's position take the same
scheduler step, push the same events, and agree again (45_snapshot R265, R266). -/
def Obligations.SnapshotDeterminesRun : Prop :=
  ∀ (s u : State) (i : Instr), SameEngine s u → s.plat.evqDepth = none →
    i = .seqTop ∨ i = .seqPpu ∨ i = .seqDrain ∨ i = .seqPcheck ∨ i = .seqPwait ∨ i = .seqExitchk →
    ∃ t v pushed, exec i s = .next t ∧ exec i u = .next v ∧ SameEngine t v ∧ t.evq = s.evq ++ pushed ∧
      v.evq = u.evq ++ pushed

/-! ## Pause requests -/

/-- `ApplyPause(q)` on the bits of any legal pause word, with its acknowledgement (43_pause R201, R206). -/
def Obligations.ApplyPauseByBits : Prop :=
  ∀ (s : State) (q : BitVec 16), (∃ i, decodePq q = .instr i) →
    ∃ i new, decodePq q = .instr i ∧
      (q.extractLsb' 0 2 = 0b00#2 → new = !s.paused) ∧ (q.extractLsb' 0 2 = 0b01#2 → new = true) ∧
      (q.extractLsb' 0 2 = 0b10#2 → new = false) ∧ (q.extractLsb' 0 2 = 0b11#2 → new = s.paused) ∧
      exec i s = .next (
        if q.extractLsb' 0 2 ≠ 0b11#2 ∧ q.getLsbD 2 = true then
          if q.extractLsb' 8 8 = 0#8 then { s with paused := new, ackValid := true, ackVal := new != s.paused }
          else { s with paused := new, out := s.out ++ [.ack (q.extractLsb' 8 8) (new != s.paused)] }
        else { s with paused := new })

/-- The four pause instructions, each with what it changes: PAUSED, and the acknowledgement if one is wanted (43_pause
R202-R206). -/
def Obligations.PauseInstrsComplete : Prop :=
  ∀ (s : State) (ack : Bool) (chan : Byte),
    (∃ t, exec (.pqToggle ack chan) s = .next t ∧ t.paused = !s.paused ∧
      (ack = true → chan = 0 → t.ackValid = true ∧ t.ackVal = true ∧ t.out = s.out) ∧
      (ack = true → chan ≠ 0 → t.ackValid = s.ackValid ∧ t.ackVal = s.ackVal ∧ t.out = s.out ++ [.ack chan true]) ∧
      (ack = false → t.ackValid = s.ackValid ∧ t.ackVal = s.ackVal ∧ t.out = s.out) ∧
      t = { s with paused := t.paused, ackValid := t.ackValid, ackVal := t.ackVal, out := t.out }) ∧
    (∃ t, exec (.pqPause ack chan) s = .next t ∧ t.paused = true ∧
      (ack = true → chan = 0 → t.ackValid = true ∧ t.ackVal = !s.paused ∧ t.out = s.out) ∧
      (ack = true → chan ≠ 0 →
        t.ackValid = s.ackValid ∧ t.ackVal = s.ackVal ∧ t.out = s.out ++ [.ack chan (!s.paused)]) ∧
      (ack = false → t.ackValid = s.ackValid ∧ t.ackVal = s.ackVal ∧ t.out = s.out) ∧
      t = { s with paused := t.paused, ackValid := t.ackValid, ackVal := t.ackVal, out := t.out }) ∧
    (∃ t, exec (.pqUnpause ack chan) s = .next t ∧ t.paused = false ∧
      (ack = true → chan = 0 → t.ackValid = true ∧ t.ackVal = s.paused ∧ t.out = s.out) ∧
      (ack = true → chan ≠ 0 →
        t.ackValid = s.ackValid ∧ t.ackVal = s.ackVal ∧ t.out = s.out ++ [.ack chan s.paused]) ∧
      (ack = false → t.ackValid = s.ackValid ∧ t.ackVal = s.ackVal ∧ t.out = s.out) ∧
      t = { s with paused := t.paused, ackValid := t.ackValid, ackVal := t.ackVal, out := t.out }) ∧
    exec .pqQuitsent s = .next s

/-- PCHECK and PWAIT take at most one pause word, run its instruction, and then leave by PAUSED, RUNNING and PWAIT_RET
(42_scheduler R175, R176). PWAIT has no step on an empty PQ while RUNNING is 1; that such a turn leaves the state as it is, is
the model's (DEDUCED, log 3). -/
def Obligations.PauseChecks : Prop :=
  ∀ s : State,
    (s.pq = [] →
      exec .seqPcheck s =
        .next (if s.paused then { s with pwaitRet := false, sphase := 0x5 } else { s with sphase := 0x6 }) ∧
      exec .seqPwait s = .next (if s.running = false then { s with sphase := 0x7 } else s)) ∧
    ∀ q rest i, s.pq = q :: rest → decodePq q = .instr i →
      ∃ u, exec i { s with pq := rest } = .next u ∧
        exec .seqPcheck s =
          .next (if u.paused then { u with pwaitRet := false, sphase := 0x5 } else { u with sphase := 0x6 }) ∧
        exec .seqPwait s = .next (
          if s.running = false then { u with sphase := 0x7 }
          else if u.paused then u
          else { u with sphase := if s.pwaitRet then 0x2 else 0x6 })

/-- Scenario S3 (43_pause R208): a Pause blocks the running scheduler, an Unpause resumes it. -/
def Obligations.PauseScenario : Prop :=
  ∀ s : State, s.running = true → s.paused = false → s.pq = [0x0001] →
    ∃ t, exec .seqPcheck s = .next t ∧ t.paused = true ∧ t.sphase = 0x5 ∧ t.pq = [] ∧
      t.schedulerEnabled = false ∧
      ∃ u, exec .seqPwait { t with pq := [0x0002] } = .next u ∧ u.paused = false ∧ u.sphase = 0x6 ∧
        ∃ v, exec .seqExitchk u = .next v ∧ v.sphase = 0x1

/-- Toggle parity (43_pause R207): after any pause words from PAUSED = 0, PAUSED is the level the last Pause or Unpause set (0
if there was none) XOR the parity of the toggles after it; quit sentinels do not count. -/
def Obligations.ToggleParity : Prop :=
  ∀ (s : State) (before after : List Instr) (v : Bool),
    s.paused = false → before.all isPauseInstr = true →
    after.all (fun i => isPauseInstr i && (pauseLevel i).isNone) = true →
    (before = [] ∧ v = false) ∨ (∃ init p, before = init ++ [p] ∧ pauseLevel p = some v) →
    ∃ t, execAll (before ++ after) s = .next t ∧ t.paused = (v ^^ decide ((after.countP isToggle) % 2 = 1))

/-! ## The scheduler -/

/-- TOP, PPU, DRAIN and EXITCHK steps that only move the sequencer, and the states without a step (42_scheduler R171-R174,
R177, R178, 44_events R221, R236). That a turn without a step passes and leaves the state as it is, is the model's (DEDUCED,
log 3). -/
def Obligations.SequencerMoves : Prop :=
  ∀ s : State,
    (s.running = false → exec .seqTop s = .next { s with sphase := 0x7 }) ∧
    (s.running = true → 5 ≤ s.quota.toNat → exec .seqTop s = .next { s with sphase := 0x2 }) ∧
    (s.running = true → s.quota.toNat < 5 → s.drainPending ≠ 0 → exec .seqTop s = .next { s with sphase := 0x3 }) ∧
    (s.quota.toNat < 5 → exec .seqPpu s = .next { s with sphase := 0x3 }) ∧
    (5 ≤ s.quota.toNat → s.running = true → s.evqRoom = false → exec .seqPpu s = .next s) ∧
    (s.drainPending = 0 → exec .seqDrain s = .next { s with sphase := 0x4 }) ∧
    (s.drainPending ≠ 0 → s.running = true → s.evqRoom = false → exec .seqDrain s = .next s) ∧
    (s.running = true → exec .seqExitchk s = .next { s with sphase := 0x1 }) ∧
    (s.running = false → exec .seqExitchk s = .next { s with sphase := 0x7 }) ∧
    exec .seqIdle s = .next s ∧ exec .seqHalt s = .next s ∧ exec .seqCIdle s = .next s ∧ exec .seqCHalt s = .next s

/-- The CPU phase of TOP (42_scheduler R172, 41_interrupt_controller R150, R158, R160, 60_exceptions R302, R303, R310): the
pending NMI and the IRQ level as they stand go to the CPU step; a good step is credited exactly; a failed one is not
credited, its bus transactions stand, and the scheduler halts. Either way only the device side behind the bus changes
besides, and never the PPU's latch. What `runBus` does is stated by `PrimitiveCallIsBus`. -/
def Obligations.CpuPhaseEffect : Prop :=
  ∀ s : State, s.running = true → s.quota.toNat < 5 → s.drainPending = 0 →
    ∃ t, exec .seqTop s = .next t ∧ t.openBusPpu = s.openBusPpu ∧
      (let r := runBus .cpu (Config.cpuStep s.cpu s.nmiLatch (Config.mapperIrq s.mapper)) s
       t.cpu = r.1.cpu ∧ t.ppu = r.2.ppu ∧ t.mapper = r.2.mapper ∧ t.dev = r.2.dev ∧ t.openBusCpu = r.2.openBusCpu ∧
       match r.1.err with
       | none =>
         t.quota.toNat = s.quota.toNat + r.1.cycles.toNat * s.divNum ∧
         t.cpuCyc.toNat = (s.cpuCyc.toNat + r.1.cycles.toNat) % 2 ^ 64 ∧ t.drainPending = r.1.cycles ∧
         t.nmiLatch = (s.nmiLatch && !r.1.nmiTaken) ∧ t.sphase = 0x2 ∧
         t = { s with
           cpu := t.cpu, ppu := t.ppu, mapper := t.mapper, dev := t.dev, openBusCpu := t.openBusCpu
           quota := t.quota, cpuCyc := t.cpuCyc, drainPending := t.drainPending, nmiLatch := t.nmiLatch
           sphase := t.sphase }
       | some e =>
         t = { s with
           cpu := t.cpu, ppu := t.ppu, mapper := t.mapper, dev := t.dev, openBusCpu := t.openBusCpu
           fault := if s.fault = .none then
               (match e with | .unsupportedOpcode => .unsupportedOpcode | .busFault => .busFault)
             else s.fault
           running := false
           out := s.out ++ [.fatal (match e with | .unsupportedOpcode => .unsupportedOpcode | .busFault => .busFault)]
           sphase := 0x7 })

/-- One PPU cycle, in the sub-step order of 60_exceptions R312 (42_scheduler R173, R179, R185, R188,
41_interrupt_controller R157, R159). What `runBus` does is stated by `PrimitiveCallIsBus`. -/
def Obligations.PpuCycleEffect : Prop :=
  ∀ s : State, 5 ≤ s.quota.toNat → s.running = false ∨ s.evqRoom = true →
    ∃ t, exec .seqPpu s = .next t ∧ t.openBusCpu = s.openBusCpu ∧
      (let r := runBus .ppu (Config.ppuStep s.ppu) s
       t.ppu = r.1.ppu ∧ t.dev = r.2.dev ∧ t.openBusPpu = r.2.openBusPpu ∧
       t.mapper = (if s.hasSlc = true ∧ Config.ppuTrigger r.1.ppu = true then Config.mapperTick r.2.mapper else r.2.mapper) ∧
       t.ppuCyc.toNat = (s.ppuCyc.toNat + 1) % 2 ^ 64 ∧ t.quota.toNat = s.quota.toNat - 5 ∧
       t.nmiLatch = (s.nmiLatch || (r.1.nmiLevel && !s.nmiPrev)) ∧ t.nmiPrev = r.1.nmiLevel ∧
       (match r.1.fb with
        | none => t.evq = s.evq ∧ t.frameSeq = s.frameSeq
        | some pixel =>
          t.frameSeq.toNat = (s.frameSeq.toNat + 1) % 2 ^ 28 ∧
          t.evq = if s.running = true then
              s.evq ++ [⟨0x1#4 ++ s.frameSeq, some (framebufferOf s.plat pixel), none⟩]
            else s.evq) ∧
       t.paused = (s.paused || decide (s.stepMode = .cycleStep) || decide (s.stepMode = .frameStep ∧ r.1.fb.isSome = true) ||
         decide (s.stepMode = .scanlineStep ∧ r.1.ppu.scanline ≠ s.ppu.scanline)) ∧
       t.pwaitRet = (s.pwaitRet || t.paused) ∧ t.sphase = (if t.paused then 0x5 else s.sphase) ∧
       t = { s with
         ppu := t.ppu, mapper := t.mapper, dev := t.dev, openBusPpu := t.openBusPpu, ppuCyc := t.ppuCyc
         nmiLatch := t.nmiLatch, nmiPrev := t.nmiPrev, evq := t.evq, frameSeq := t.frameSeq, quota := t.quota
         paused := t.paused, pwaitRet := t.pwaitRet, sphase := t.sphase })

/-- The single-step laws (42_scheduler R184): after one PPU cycle the scheduler has paused itself exactly when the step mode
says so, and never under NoStep. -/
def Obligations.SingleStepLaws : Prop :=
  ∀ s : State, s.sphase = 0x2 → s.paused = false → 5 ≤ s.quota.toNat → s.running = false ∨ s.evqRoom = true →
    ∃ t, exec .seqPpu s = .next t ∧ (t.paused = true ↔ t.sphase = 0x5) ∧ (t.paused = false ↔ t.sphase = 0x2) ∧
      (s.stepMode = .cycleStep → t.sphase = 0x5 ∧ t.pwaitRet = true) ∧
      (s.stepMode = .scanlineStep → (t.sphase = 0x5 ↔ t.ppu.scanline ≠ s.ppu.scanline)) ∧
      (s.stepMode = .frameStep → (t.sphase = 0x5 ↔ t.frameSeq ≠ s.frameSeq)) ∧
      (s.stepMode = .noStep → t.sphase = 0x2)

/-- One slot of the sample drain (42_scheduler R174, R179, 41_interrupt_controller R151, 30_encoding R113). -/
def Obligations.DrainSlot : Prop :=
  ∀ s : State, s.drainPending ≠ 0 → s.running = false ∨ s.evqRoom = true →
    ∃ t, exec .seqDrain s = .next t ∧ t.drainPending.toNat = s.drainPending.toNat - 1 ∧
      t.cpu = (Config.apuSample s.cpu).cpu ∧
      (if (Config.apuSample s.cpu).produced = true ∧ s.running = true then
         ∃ w : BitVec 32, t.evq = s.evq ++ [⟨w, none, none⟩] ∧ w.extractLsb' 28 4 = 0x2#4 ∧ w.extractLsb' 16 12 = 0#12 ∧
           w.extractLsb' 0 16 = (Config.apuSample s.cpu).sample
       else t.evq = s.evq) ∧
      t = { s with cpu := t.cpu, drainPending := t.drainPending, evq := t.evq }

/-- The PPU phase under NoStep runs exactly `⌊QUOTA / 5⌋` cycles and leaves `QUOTA mod 5` (42_scheduler R181, R182): in state
PPU with no pause and an unbounded EVQ. -/
def Obligations.PpuPhaseLength : Prop :=
  ∀ s : State, s.sphase = 0x2 → s.stepMode = .noStep → s.paused = false → s.plat.evqDepth = none →
    ∃ t, execAll (List.replicate (s.quota.toNat / 5) .seqPpu) s = .next t ∧ t.quota.toNat = s.quota.toNat % 5 ∧
      t.ppuCyc.toNat = (s.ppuCyc.toNat + s.quota.toNat / 5) % 2 ^ 64 ∧ t.sphase = 0x2 ∧ t.paused = false ∧
      exec .seqPpu t = .next { t with sphase := 0x3 }

/-- Quit latency (70_reset_and_hazards R345): once RUNNING is 0 the scheduler is in HALT after at most the rest of the PPU
phase, the rest of the drain and four moves, whatever the queues hold. -/
def Obligations.QuitHalts : Prop :=
  ∀ s : State, s.running = false → s.sphase ≠ 0x0 → s.sphase.toNat ≤ 7 →
    ∃ t, schedulerRun (s.quota.toNat / 5 + s.drainPending.toNat + 4) s = .next t ∧ t.sphase = 0x7 ∧ t.evq = s.evq ∧
      (s.sphase = 0x1 ∨ s.sphase = 0x5 ∨ s.sphase = 0x6 → ∃ u, schedulerRun 1 s = .next u ∧ u.sphase = 0x7)

/-! ## Lifecycle commands -/

/-- CONFIG, RESET, START and SINK_FATAL, each where it is accepted and where it is refused (46_lifecycle R280-R282, R285,
70_reset_and_hazards R330, R332). What a reset does to the devices is 10_state R53; that the CPU's own devices have their states
in the device store is the model's (DEDUCED, log 32). -/
def Obligations.LifecycleCommands : Prop :=
  ∀ (s : State) (region : Region) (hasSlc : Bool),
    (s.sphase ≠ 0x0 ∨ s.started = true → ∀ i, i = .ctlConfig region hasSlc ∨ i = .ctlReset ∨ i = .ctlStart →
      exec i s = .next { s with ctlStatus := .busy }) ∧
    (s.sphase = 0x0 → s.started = false →
      exec (.ctlConfig region hasSlc) s = .next { s with region := region, hasSlc := hasSlc, ctlStatus := .ok } ∧
      (∃ dev, DevicesReset s dev ∧ exec .ctlReset s = .next { s with
        cpu := Config.cpuReset s.cpu, ppu := Config.ppuReset s.ppu, dev := dev, quota := 0, ctrl0 := 0, ctrl1 := 0
        cpuCyc := 0, ppuCyc := 0, drainPending := 0, frameSeq := 0, nmiLatch := false, nmiPrev := false, paused := false
        ctlStatus := .ok }) ∧
      (s.consFail = true → exec .ctlStart s = .next { s with ctlStatus := .notRunnable }) ∧
      (s.consFail = false → ∃ dev, DevicesReset s dev ∧ exec .ctlStart s = .next { s with
        mapper := Config.batteryLoad s.mapper
        cpu := Config.cpuReset s.cpu, ppu := Config.ppuReset s.ppu, dev := dev, quota := 0, ctrl0 := 0, ctrl1 := 0
        cpuCyc := 0, ppuCyc := 0, drainPending := 0, frameSeq := 0, nmiLatch := false, nmiPrev := false, paused := false
        running := true, started := true, sphase := 0x1, cphase := 0b001, ctlStatus := .ok })) ∧
    (s.running = false → exec .ctlSinkFatal s = .next { s with ctlStatus := .busy }) ∧
    (s.running = true → exec .ctlSinkFatal s = .next { s with
      fault := if s.fault = .none then .sinkFailure else s.fault, running := false
      out := s.out ++ [.fatal .sinkFailure], ctlStatus := .ok })

/-- MAP_ADD: the checks in their order, the first that applies deciding; a range that meets no entry is appended (40_bus
R133, 60_exceptions R305). -/
def Obligations.MapAddChecks : Prop :=
  ∀ (s : State) (sp : Space) (dev : Byte) (lo hi : Addr),
    let map := match sp with | .cpu => s.mapCpu | .ppu => s.mapPpu
    let known := dev ≠ 0 ∧ ∃ d ∈ s.plat.devices, d.1 = dev
    let open_ := s.sphase = 0x0 ∧ s.started = false
    let apart := ∀ e ∈ map, ¬(e.lo ≤ hi ∧ lo ≤ e.hi)
    (¬known → exec (.ctlMapAdd sp dev lo hi) s = .next { s with ctlStatus := .illegal }) ∧
    (known → ¬open_ → exec (.ctlMapAdd sp dev lo hi) s = .next { s with ctlStatus := .busy }) ∧
    (known → open_ → hi < lo →
      exec (.ctlMapAdd sp dev lo hi) s = .next { s with ctlStatus := .mapRange, consFail := true }) ∧
    (known → open_ → lo ≤ hi → ¬apart →
      exec (.ctlMapAdd sp dev lo hi) s = .next { s with ctlStatus := .mapConflict, consFail := true }) ∧
    (known → open_ → lo ≤ hi → apart → 32 ≤ map.length →
      exec (.ctlMapAdd sp dev lo hi) s = .next { s with ctlStatus := .mapFull, consFail := true }) ∧
    (known → open_ → lo ≤ hi → apart → map.length < 32 →
      exec (.ctlMapAdd sp dev lo hi) s = .next (match sp with
        | .cpu => { s with mapCpu := s.mapCpu ++ [⟨lo, hi, dev⟩], ctlStatus := .ok }
        | .ppu => { s with mapPpu := s.mapPpu ++ [⟨lo, hi, dev⟩], ctlStatus := .ok }))

/-- Reset twice (46_lifecycle R290, 95_test_vectors RS2): the second RESET changes only the two primitives' states and those of
their own devices (10_state R53; where those of the CPU have their states is the model's, DEDUCED, log 32). -/
def Obligations.ResetTwice : Prop :=
  ∀ s : State, s.sphase = 0x0 → s.started = false →
    ∃ t u, exec .ctlReset s = .next t ∧ exec .ctlReset t = .next u ∧
      DevicesReset s t.dev ∧ DevicesReset t u.dev ∧ u = { t with
        cpu := Config.cpuReset (Config.cpuReset s.cpu), ppu := Config.ppuReset (Config.ppuReset s.ppu), dev := u.dev }

/-- The register map of 10_state R54, bit by bit, with the codes of R22, R31 and R43: a read returns the register and changes no
register of the block (46_lifecycle R284). -/
def Obligations.CsrLayout : Prop :=
  ∀ s : State,
    (∀ n : BitVec 8, n.toNat ≤ 0x15 ∨ (0x20 ≤ n.toNat ∧ n.toNat ≤ 0x5F) →
      ∃ v, exec (.ctlCsrRead n) s = .next { s with ctlRdata := v } ∧
        (n = 0x01 → v.getLsbD 0 = s.running ∧ v.getLsbD 1 = s.started ∧ v.extractLsb' 2 62 = 0#62) ∧
        (n = 0x02 → v.extractLsb' 0 4 = s.sphase ∧ v.getLsbD 4 = s.pwaitRet ∧ v.extractLsb' 5 59 = 0#59) ∧
        (n = 0x03 → v.extractLsb' 0 3 = s.cphase ∧ v.extractLsb' 3 61 = 0#61) ∧
        (n = 0x04 → v.extractLsb' 0 2 = (match s.stepMode with
            | .noStep => 0b00#2 | .cycleStep => 0b01#2 | .scanlineStep => 0b10#2 | .frameStep => 0b11#2) ∧
          v.extractLsb' 2 62 = 0#62) ∧
        (n = 0x05 → v.getLsbD 0 = s.paused ∧ v.extractLsb' 1 63 = 0#63) ∧
        (n = 0x06 → v.extractLsb' 0 32 = s.quota ∧ v.extractLsb' 32 32 = 0#32) ∧
        (n = 0x07 → v.extractLsb' 0 8 = 5#8 ∧ v.extractLsb' 8 8 = (match s.region with | .ntsc => 15#8 | .pal => 16#8) ∧
          v.getLsbD 16 = decide (s.region = .pal) ∧ v.getLsbD 17 = s.hasSlc ∧ v.extractLsb' 18 46 = 0#46) ∧
        (n = 0x08 → v.extractLsb' 0 16 = s.drainPending ∧ v.extractLsb' 16 48 = 0#48) ∧
        (n = 0x09 → v = s.cpuCyc) ∧ (n = 0x0A → v = s.ppuCyc) ∧
        (n = 0x0B → v.extractLsb' 0 28 = s.frameSeq ∧ v.extractLsb' 28 36 = 0#36) ∧
        (n = 0x0C → v.getLsbD 0 = s.nmiLatch ∧ v.getLsbD 1 = s.nmiPrev ∧ v.getLsbD 2 = Config.mapperIrq s.mapper ∧
          v.extractLsb' 3 61 = 0#61) ∧
        (n = 0x0D → v.extractLsb' 0 2 = (match s.fault with
            | .none => 0b00#2 | .unsupportedOpcode => 0b01#2 | .busFault => 0b10#2 | .sinkFailure => 0b11#2) ∧
          v.extractLsb' 2 62 = 0#62) ∧
        (n = 0x0E → v.getLsbD 0 = s.evIllegal ∧ v.getLsbD 1 = s.hostRefused ∧
          v.extractLsb' 2 3 = (match s.ctlStatus with
            | .ok => 0#3 | .illegal => 1#3 | .busy => 2#3 | .mapConflict => 3#3 | .mapFull => 4#3 | .mapRange => 5#3
            | .notRunnable => 6#3) ∧
          v.extractLsb' 5 4 = (match s.snapStatus with
            | .none => 0#4 | .saved => 1#4 | .loaded => 2#4 | .errIo => 3#4 | .errVersion => 4#4 | .errMissing => 5#4
            | .errDecode => 6#4 | .aborted => 7#4) ∧
          v.getLsbD 9 = s.consFail ∧ v.extractLsb' 10 54 = 0#54) ∧
        (n = 0x0F → v.extractLsb' 0 8 = s.openBusCpu ∧ v.extractLsb' 8 8 = s.openBusPpu ∧ v.extractLsb' 16 48 = 0#48) ∧
        (n = 0x10 → v.extractLsb' 0 8 = s.ctrl0 ∧ v.extractLsb' 8 8 = s.ctrl1 ∧ v.extractLsb' 16 48 = 0#48) ∧
        (n = 0x11 → v.getLsbD 0 = s.showFps ∧ v.extractLsb' 1 63 = 0#63) ∧
        (n = 0x12 → v.toNat = min s.evq.length (2 ^ 32 - 1)) ∧ (n = 0x13 → v.toNat = min s.pq.length (2 ^ 32 - 1)) ∧
        (n = 0x14 → v.extractLsb' 0 6 = BitVec.ofNat 6 s.mapCpu.length ∧
          v.extractLsb' 8 6 = BitVec.ofNat 6 s.mapPpu.length ∧ v.extractLsb' 6 2 = 0#2 ∧ v.extractLsb' 14 50 = 0#50) ∧
        (n = 0x15 → v.getLsbD 0 = s.ackValid ∧ v.getLsbD 1 = s.ackVal ∧ v.extractLsb' 2 62 = 0#62)) ∧
    ∀ (sp : Space) (i : Fin 32), ∃ v : BitVec 64,
      exec (.ctlCsrRead (BitVec.ofNat 8 ((match sp with | .cpu => 0x20 | .ppu => 0x40) + i.val))) s =
        .next { s with ctlRdata := v } ∧
      match (s.map sp)[i.val]? with
      | none => v = 0#64
      | some e => v.extractLsb' 0 16 = e.hi ∧ v.extractLsb' 16 16 = e.lo ∧ v.extractLsb' 32 8 = e.dev ∧
          v.extractLsb' 40 23 = 0#23 ∧ v.getLsbD 63 = true

/-- BLOCK_ID is a constant (10_state R57); a reserved number is refused, returns 0 and changes nothing else (R56). -/
def Obligations.ConstantAndReservedCsrs : Prop :=
  ∀ (s : State) (n : BitVec 8),
    exec (.ctlCsrRead 0x00) s = .next { s with ctlRdata := 0x4E545337 } ∧
    ((0x16 ≤ n.toNat ∧ n.toNat ≤ 0x1F) ∨ 0x60 ≤ n.toNat →
      exec (.ctlCsrRead n) s = .next { s with ctlStatus := .illegal, ctlRdata := 0 })

/-! ## The bus -/

/-- A mapped access goes to the one device whose range holds the address, whole address and all; the datum is left on the
space's latch, and nothing but that device's state and that latch changes (40_bus R131, R132, 10_state R36). `busRdata` is the
model's read port (log 14); where a device's state lives is log 9 and log 32. -/
def Obligations.BusMapped : Prop :=
  ∀ (s : State) (sp : Space) (addr : Addr) (w : Byte) (d : Byte), s.lookup sp addr = some d →
    (∃ t, exec (.busRd sp addr w) s = .next t ∧ t.openBus sp = t.busRdata ∧
      (∀ q, q ≠ sp → t.openBus q = s.openBus q) ∧ (∀ k, k ≠ d.toNat → devGet t.dev k = devGet s.dev k) ∧
      (match s.plat.kindOf d with
       | .ppuRegs => (t.busRdata, t.ppu) = Config.ppuDevRead d sp addr s.ppu ∧ t.mapper = s.mapper ∧ t.dev = s.dev
       | .mapper => (t.busRdata, t.mapper) = Config.mapperDevRead d sp addr s.mapper ∧ t.ppu = s.ppu ∧ t.dev = s.dev
       | .controller =>
         let r := Config.ctrlDevRead d sp addr s.ctrl0 s.ctrl1 (devGet s.dev d.toNat)
         t.busRdata = r.1 ∧ t.dev = devSet s.dev d.toNat r.2 ∧ t.ppu = s.ppu ∧ t.mapper = s.mapper
       | .cpuOwned | .plain =>
         let r := Config.devRead d sp addr (devGet s.dev d.toNat)
         t.busRdata = r.1 ∧ t.dev = devSet s.dev d.toNat r.2 ∧ t.ppu = s.ppu ∧ t.mapper = s.mapper) ∧
      t = { s with
        ppu := t.ppu, mapper := t.mapper, dev := t.dev, openBusCpu := t.openBusCpu, openBusPpu := t.openBusPpu
        busRdata := t.busRdata }) ∧
    (∃ t, exec (.busWr sp addr w) s = .next t ∧ t.openBus sp = w ∧ (∀ q, q ≠ sp → t.openBus q = s.openBus q) ∧
      (∀ k, k ≠ d.toNat → devGet t.dev k = devGet s.dev k) ∧
      (match s.plat.kindOf d with
       | .ppuRegs => t.ppu = Config.ppuDevWrite d sp addr w s.ppu ∧ t.mapper = s.mapper ∧ t.dev = s.dev
       | .mapper => t.mapper = Config.mapperDevWrite d sp addr w s.mapper ∧ t.ppu = s.ppu ∧ t.dev = s.dev
       | .controller | .cpuOwned | .plain =>
         t.dev = devSet s.dev d.toNat (Config.devWrite d sp addr w (devGet s.dev d.toNat)) ∧ t.ppu = s.ppu ∧
           t.mapper = s.mapper) ∧
      t = { s with
        ppu := t.ppu, mapper := t.mapper, dev := t.dev, openBusCpu := t.openBusCpu, openBusPpu := t.openBusPpu })

/-- Open bus (40_bus R131, R132, 20_memory R87): where no range holds the address a read returns the space's latch and changes
nothing, a write reaches no device and sets the latch, and a read after it returns what was written. -/
def Obligations.BusUnmapped : Prop :=
  ∀ (s : State) (sp : Space) (addr : Addr) (w x : Byte),
    (∀ e ∈ s.map sp, ¬(e.lo ≤ addr ∧ addr ≤ e.hi)) →
    exec (.busRd sp addr x) s = .next { s with busRdata := s.openBus sp } ∧
    ∃ t, exec (.busWr sp addr w) s = .next t ∧
      t = (match sp with | .cpu => { s with openBusCpu := w } | .ppu => { s with openBusPpu := w }) ∧
      exec (.busRd sp addr x) t = .next { t with busRdata := w }

/-- Lookup (40_bus R134, R135): in a sound map an entry that holds the address is the one the access goes to. -/
def Obligations.LookupUnique : Prop :=
  ∀ (s : State) (sp : Space) (addr : Addr), MapsSound s →
    (∀ e ∈ s.map sp, e.lo ≤ addr → addr ≤ e.hi →
      s.lookup sp addr = some e.dev ∧ ∀ f ∈ s.map sp, f.lo ≤ addr → addr ≤ f.hi → f = e) ∧
    ((∀ e ∈ s.map sp, ¬(e.lo ≤ addr ∧ addr ≤ e.hi)) ↔ s.lookup sp addr = none)

/-- A primitive call is its bus transactions one after another, each an instruction of 40_bus R131 or R132 in the call's space
that goes on from the state the last one left, the next one chosen from the data read; then its result (40_bus R136). The
read port `busRdata` is the model's (log 14), and the interaction form of a primitive is log 6. -/
def Obligations.PrimitiveCallIsBus : Prop :=
  ∀ (α : Type) (s : State) (sp : Space),
    (∀ a : α, runBus sp (.done a) s = (a, s)) ∧
    (∀ (addr : Addr) (k : Byte → BusProg α) (w : Byte), ∃ t, exec (.busRd sp addr w) s = .next t ∧
      runBus sp (.read addr k) s = runBus sp (k t.busRdata) { t with busRdata := s.busRdata }) ∧
    (∀ (addr : Addr) (v : Byte) (k : BusProg α), ∃ t, exec (.busWr sp addr v) s = .next t ∧
      runBus sp (.write addr v k) s = runBus sp k t) ∧
    ∀ call : BusProg α, ∃ transactions : List Instr,
      (∀ i ∈ transactions, (∃ addr w, i = .busRd sp addr w) ∨ ∃ addr v, i = .busWr sp addr v) ∧
      ∃ t, execAll transactions s = .next t ∧ (runBus sp call s).2 = { t with busRdata := s.busRdata }

/-! ## Steps -/

/-- A step runs the instruction it decodes: a bus request standing at the multiplexer, else the sequencer of the agent whose
turn it is, else the control word the host's turn takes, which no push that waits for room on EVQ holds back
(70_reset_and_hazards R339, 60_exceptions R324); the turn goes on as the free schedule says (the model's fields, log 2, 4,
14). -/
def Obligations.StepRunsDecoded : Prop :=
  ∀ (s : State) (i : Instr),
    (∀ b, s.busReq = some b → decode (.bus b) = .instr i → step s = exec i { s with busReq := none }) ∧
    (s.busReq = none → s.turn = .scheduler → decode (.sphase s.sphase) = .instr i →
      step s = exec i { s with turn := Config.nextAgent s.tick, tick := s.tick + 1 }) ∧
    (s.busReq = none → s.turn = .consumer → decode (.cphase s.cphase) = .instr i →
      step s = exec i { s with turn := Config.nextAgent s.tick, tick := s.tick + 1 }) ∧
    (∀ c port, HostTakes s (.ctl c) port → decode (.ctl c) = .instr i →
      step s = exec i { s with turn := Config.nextAgent s.tick, tick := s.tick + 1, hostPort := port })

/-- A control word that matches no row sets ILLEGAL, returns 0 and does nothing else (30_encoding R109, 46_lifecycle R286). The
ports, the schedule and the read data's field are the model's (log 2, 4, 14, 15). -/
def Obligations.IllegalControlWord : Prop :=
  ∀ (s : State) (c : BitVec 64) (port : List HostCmd), HostTakes s (.ctl c) port → ¬controlLegal c →
    step s = .next { s with
      ctlStatus := .illegal, ctlRdata := 0, hostPort := port, turn := Config.nextAgent s.tick, tick := s.tick + 1 }

/-- The host's event port (44_events R237, R239, 60_exceptions R308): FRAME and SAMPLE are refused, every other word is pushed
unchanged with the side data the host gave. With EVQ full no push is enabled; that it then waits at the port, in its place,
while the turn passes, is the model's choice (log 2, 4, 14). -/
def Obligations.HostPush : Prop :=
  ∀ (s : State) (w : BitVec 32) (img : Option Image) (port : List HostCmd),
    (HostTakes s (.push w img) port → step s = .next (
      if s.evqRoom = false then
        { s with hostPort := port ++ [.push w img], turn := Config.nextAgent s.tick, tick := s.tick + 1 }
      else if w.extractLsb' 28 4 = 0x1#4 ∨ w.extractLsb' 28 4 = 0x2#4 then
        { s with hostRefused := true, hostPort := port, turn := Config.nextAgent s.tick, tick := s.tick + 1 }
      else
        { s with
          evq := s.evq ++ [⟨w, none, img⟩], hostPort := port, turn := Config.nextAgent s.tick, tick := s.tick + 1 })) ∧
    (s.busReq = none → s.turn = .host → s.evqRoom = false → s.hostPort = .push w img :: port →
      ∃ t left, step s = .next t ∧ t.evq = s.evq ∧ t.hostRefused = s.hostRefused ∧ t.hostPort = .push w img :: left)

/-- The "enabled when" columns (42_scheduler R170, 44_events R220): an agent changes something exactly when its state is
enabled. That a state which is not enabled leaves everything as it is, is the model's form of "no step" (DEDUCED, log 3). -/
def Obligations.StepIffEnabled : Prop :=
  ∀ (s : State) (i : Instr),
    (decodeSphase s.sphase = .instr i → (exec i s = .next s ↔ s.schedulerEnabled = false)) ∧
    (decodeCphase s.cphase = .instr i → (exec i s = .next s ↔ s.consumerEnabled = false))

/-- Only a reserved sequencer code stops the machine (30_encoding R114): with legal codes every step answers a next state, and
a reserved code of the agent whose turn it is is stuck. The spec's "no step" of a stuck agent is a fault by name in the model
(DEDUCED, log 16), and a stalled agent's turn passes (DEDUCED, log 3). -/
def Obligations.StuckIffReserved : Prop :=
  ∀ s : State,
    (CodesLegal s → ∃ t, step s = .next t) ∧
    (s.busReq = none → s.turn = .scheduler → (8 ≤ s.sphase.toNat ↔ step s = .fault .reservedSphase)) ∧
    (s.busReq = none → s.turn = .consumer → (5 ≤ s.cphase.toNat ↔ step s = .fault .reservedCphase))

/-! ## Rules of the whole block -/

/-- The writer table (10_state R58, 60_exceptions R318): what no step of the scheduler, of the consumer, of the host's
commands changes. Of the devices the host changes only those that are the CPU's own, and those only before START (10_state R53;
that they are in the device store is log 32, DEDUCED). -/
def Obligations.WriterTable : Prop :=
  ∀ (s t : State) (i : Instr), exec i s = .next t →
    (decodeSphase s.sphase = .instr i →
      t.started = s.started ∧ t.stepMode = s.stepMode ∧ t.region = s.region ∧ t.hasSlc = s.hasSlc ∧
      t.mapCpu = s.mapCpu ∧ t.mapPpu = s.mapPpu ∧ t.ctrl0 = s.ctrl0 ∧ t.ctrl1 = s.ctrl1 ∧ t.cphase = s.cphase ∧
      t.curEv = s.curEv ∧ t.showFps = s.showFps ∧ t.evIllegal = s.evIllegal ∧ t.hostRefused = s.hostRefused ∧
      t.consFail = s.consFail ∧ t.ctlStatus = s.ctlStatus ∧ t.snapStatus = s.snapStatus ∧
      (t.running = true → s.running = true) ∧ (s.ackValid = true → t.ackValid = true) ∧
      (∃ l, t.evq = s.evq ++ l) ∧ ∃ p, s.pq = p ++ t.pq) ∧
    (decodeCphase s.cphase = .instr i →
      t.started = s.started ∧ t.region = s.region ∧ t.hasSlc = s.hasSlc ∧ t.mapCpu = s.mapCpu ∧ t.mapPpu = s.mapPpu ∧
      t.paused = s.paused ∧ t.sphase = s.sphase ∧ t.pwaitRet = s.pwaitRet ∧ t.fault = s.fault ∧ t.ackVal = s.ackVal ∧
      t.hostRefused = s.hostRefused ∧ t.consFail = s.consFail ∧ t.ctlStatus = s.ctlStatus ∧
      (t.running = true → s.running = true) ∧ (t.ackValid = true → s.ackValid = true) ∧
      (∃ p, s.evq = p ++ t.evq) ∧ (∃ l, t.pq = s.pq ++ l) ∧
      (t.snapStatus ≠ .loaded ∨ s.cphase ≠ 0b011 →
        t.cpu = s.cpu ∧ t.ppu = s.ppu ∧ t.mapper = s.mapper ∧ t.dev = s.dev ∧ t.quota = s.quota ∧
        t.drainPending = s.drainPending ∧ t.cpuCyc = s.cpuCyc ∧ t.ppuCyc = s.ppuCyc ∧ t.frameSeq = s.frameSeq ∧
        t.nmiLatch = s.nmiLatch ∧ t.nmiPrev = s.nmiPrev ∧ t.openBusCpu = s.openBusCpu ∧ t.openBusPpu = s.openBusPpu)) ∧
    (∀ c, decodeCtl c = .instr i →
      t.stepMode = s.stepMode ∧ t.pwaitRet = s.pwaitRet ∧ t.evq = s.evq ∧ t.pq = s.pq ∧ t.curEv = s.curEv ∧
      t.ackValid = s.ackValid ∧ t.ackVal = s.ackVal ∧ t.showFps = s.showFps ∧ t.evIllegal = s.evIllegal ∧
      t.hostRefused = s.hostRefused ∧ t.snapStatus = s.snapStatus ∧ t.openBusCpu = s.openBusCpu ∧
      t.openBusPpu = s.openBusPpu ∧ (s.started = true → t.dev = s.dev) ∧
      ∀ d : Byte, s.plat.kindOf d ≠ .cpuOwned → devGet t.dev d.toNat = devGet s.dev d.toNat)

/-- What a step never undoes (10_state R21, R31, R43, R44, 46_lifecycle R282): STARTED, FAULT, the sticky status bits, the
terminal states and the outputs already made; and RUNNING never returns. -/
def Obligations.NeverUndone : Prop :=
  ∀ s t : State, step s = .next t →
    (s.started = true → t.started = true) ∧ (s.fault ≠ .none → t.fault = s.fault) ∧
    (s.evIllegal = true → t.evIllegal = true) ∧ (s.hostRefused = true → t.hostRefused = true) ∧
    (s.consFail = true → t.consFail = true) ∧ (s.started = true → s.running = false → t.running = false) ∧
    (s.started = true → s.sphase = 0x7 → t.sphase = 0x7) ∧ (s.started = true → s.cphase = 0b100 → t.cphase = 0b100) ∧
    ∃ l, t.out = s.out ++ l

/-- What is fixed (10_state R24, R35, 00_scope R8, R7): the platform always, the ratio and both maps from START on. -/
def Obligations.ConfigurationFixed : Prop :=
  ∀ s t : State, step s = .next t →
    t.plat = s.plat ∧ (s.started = true → t.region = s.region ∧ t.hasSlc = s.hasSlc ∧ t.mapCpu = s.mapCpu ∧
      t.mapPpu = s.mapPpu)

/-- EVQ and PQ are FIFOs (10_state R38, R39, 44_events R238): a step appends at the tail or takes the head, and nothing else
moves. -/
def Obligations.QueuesAreFifos : Prop :=
  ∀ s t : State, step s = .next t →
    ((∃ l, l.length ≤ 1 ∧ t.evq = s.evq ++ l) ∨ ∃ e, s.evq = e :: t.evq) ∧
    ((∃ l, l.length ≤ 1 ∧ t.pq = s.pq ++ l) ∨ ∃ q, s.pq = q :: t.pq)

/-- While PAUSED is 1 no scheduler step advances a counter, the quota or a primitive (42_scheduler R183,
41_interrupt_controller R163). -/
def Obligations.PausedStandsStill : Prop :=
  ∀ s t : State, PauseSound s → s.paused = true → s.busReq = none → s.turn = .scheduler → step s = .next t →
    t = { s with
      paused := t.paused, sphase := t.sphase, pq := t.pq, ackValid := t.ackValid, ackVal := t.ackVal, out := t.out
      turn := t.turn, tick := t.tick }

/-! ## Invariants every step keeps -/

/-- The sequencer codes stay legal and the lifecycle sound (10_state R21, R26, R40, 60_exceptions R302, R304, R326). -/
def Obligations.LifecycleKept : Prop :=
  ∀ s t : State, CodesLegal s → Lifecycle s → step s = .next t → CodesLegal t ∧ Lifecycle t

/-- The exact ratio (10_state R51) and the bound of QUOTA (R23) are kept by every step of every agent. -/
def Obligations.RatioKept : Prop :=
  ∀ s t : State, Lifecycle s → RatioExact s → step s = .next t → RatioExact t

/-- Only PWAIT (or a halted scheduler) is paused, and PWAIT always is (42_scheduler R183). -/
def Obligations.PauseSoundKept : Prop := ∀ s t : State, PauseSound s → step s = .next t → PauseSound t

/-- The save and load handshake is kept (44_events R227, R234, R235, 70_reset_and_hazards R340). -/
def Obligations.HandshakeKept : Prop :=
  ∀ s t : State, Lifecycle s → HandshakeSound s → step s = .next t → HandshakeSound t

/-- QUOTA is below one PPU cycle in DRAIN and PCHECK (10_state R52). -/
def Obligations.QuotaSettledKept : Prop :=
  ∀ s t : State, Lifecycle s → HandshakeSound s → QuotaSettled s → step s = .next t → QuotaSettled t

/-- Both maps stay sound: at most 32 entries, known devices, no two ranges meeting (10_state R35, 40_bus R133, R135). -/
def Obligations.MapsKept : Prop := ∀ s t : State, MapsSound s → step s = .next t → MapsSound t

/-- FRAME entries carry a framebuffer of the platform's size and no other entry one; every pause word is legal (10_state R38,
30_encoding R106). -/
def Obligations.QueuesKept : Prop := ∀ s t : State, QueuesSound s → step s = .next t → QueuesSound t

/-- CUR_EV is the entry of the handshake in flight, none otherwise (10_state R40). -/
def Obligations.CurEvKept : Prop := ∀ s t : State, Lifecycle s → CurEvSound s → step s = .next t → CurEvSound t

/-- No step leaves a bus request standing (40_bus R136), whatever stood there before, and the device store keeps its canonical
form (the model's forms: log 10, log 14). -/
def Obligations.PortsKept : Prop :=
  ∀ s t : State, step s = .next t → t.busReq = none ∧ (devWf s.dev = true → devWf t.dev = true)

/-- The power-on state meets every invariant above, with the power-on values of 10_state R53. -/
def Obligations.ResetSound : Prop :=
  CodesLegal State.reset ∧ Lifecycle State.reset ∧ RatioExact State.reset ∧ PauseSound State.reset ∧
  HandshakeSound State.reset ∧ QuotaSettled State.reset ∧ MapsSound State.reset ∧ QueuesSound State.reset ∧
  CurEvSound State.reset ∧ PortsQuiet State.reset ∧
  State.reset.running = false ∧ State.reset.started = false ∧ State.reset.stepMode = .noStep ∧ State.reset.quota = 0 ∧
  State.reset.region = .ntsc ∧ State.reset.hasSlc = false ∧ State.reset.paused = false ∧ State.reset.sphase = 0x0 ∧
  State.reset.pwaitRet = false ∧ State.reset.drainPending = 0 ∧ State.reset.cpuCyc = 0 ∧ State.reset.ppuCyc = 0 ∧
  State.reset.frameSeq = 0 ∧ State.reset.fault = .none ∧ State.reset.nmiLatch = false ∧ State.reset.nmiPrev = false ∧
  State.reset.mapCpu = [] ∧ State.reset.mapPpu = [] ∧ State.reset.ctrl0 = 0 ∧ State.reset.ctrl1 = 0 ∧
  State.reset.evq = [] ∧ State.reset.pq = [] ∧ State.reset.cphase = 0b000 ∧ State.reset.curEv = none ∧
  State.reset.ackValid = false ∧ State.reset.ackVal = false ∧ State.reset.showFps = false ∧
  State.reset.evIllegal = false ∧ State.reset.hostRefused = false ∧ State.reset.consFail = false ∧
  State.reset.ctlStatus = .ok ∧ State.reset.snapStatus = .none

end
end

