-- ==== Sys2Proof/Laws/DevStore.lean ====
section
/-!
SUPPORT. The laws of the device store: read after write, every operation keeps the canonical form, and stores in that form
are equal when they read alike.
-/
namespace Sys2Proof.Machine

theorem devGet_devSet_same (l : DevStore) (d : Nat) (b : Blob) (h : devWf l = true) : devGet (devSet l d b) d = b := by
  induction l with
  | nil =>
    by_cases hb : b = [] <;> simp [devSet, devGet, hb]
  | cons e rest ih =>
    obtain ⟨k, c⟩ := e
    simp only [devWf, Bool.and_eq_true, List.all_eq_true, decide_eq_true_eq] at h
    have above : ∀ m ≤ k, devGet rest m = [] := by
      intro m hm
      have : ∀ r : DevStore, (∀ x ∈ r, k < x.1) → devGet r m = [] := by
        intro r
        induction r with
        | nil => intro _; rfl
        | cons x r ihr =>
          intro hx
          have h1 := hx x (by simp)
          simp only [devGet]
          rw [if_neg (by omega)]
          exact ihr fun y hy => hx y (by simp [hy])
      exact this rest h.1.2
    simp only [devSet]
    split
    · rename_i hlt
      split
      · rename_i hb
        subst hb
        simp only [devGet]
        rw [if_neg (by omega), above d (by omega)]
      · simp [devGet]
    · split
      · rename_i heq
        subst heq
        split
        · rename_i hb
          rw [above d (by omega), hb]
        · simp [devGet]
      · simp only [devGet]
        rw [if_neg (by omega)]
        exact ih h.2

theorem devGet_devSet_other (l : DevStore) (d m : Nat) (b : Blob) (hm : m ≠ d) :
    devGet (devSet l d b) m = devGet l m := by
  induction l with
  | nil => by_cases hb : b = [] <;> simp [devSet, devGet, hb, hm.symm]
  | cons e rest ih =>
    obtain ⟨k, c⟩ := e
    simp only [devSet]
    split
    · split
      · rfl
      · simp [devGet, hm.symm]
    · split
      · rename_i heq
        subst heq
        split <;> simp [devGet, hm.symm]
      · simp only [devGet, ih]

theorem devSet_keys_above (l : DevStore) (d k : Nat) (b : Blob) (hk : k < d) (h : ∀ x ∈ l, k < x.1) :
    ∀ x ∈ devSet l d b, k < x.1 := by
  induction l with
  | nil =>
    intro x hx
    by_cases hb : b = []
    · simp [devSet, hb] at hx
    · simp [devSet, hb] at hx
      simp [hx, hk]
  | cons e rest ih =>
    obtain ⟨j, c⟩ := e
    have hj : k < j := h (j, c) (by simp)
    have hr : ∀ x ∈ rest, k < x.1 := fun x hx => h x (by simp [hx])
    intro x hx
    simp only [devSet] at hx
    split at hx
    · split at hx
      · exact h x hx
      · rcases List.mem_cons.1 hx with rfl | hx
        · exact hk
        · exact h x hx
    · split at hx
      · split at hx
        · exact hr x hx
        · rcases List.mem_cons.1 hx with rfl | hx
          · exact hk
          · exact hr x hx
      · rcases List.mem_cons.1 hx with rfl | hx
        · exact hj
        · exact ih hr x hx

/-- Every write keeps the canonical form. -/
theorem devSet_wf (l : DevStore) (d : Nat) (b : Blob) (h : devWf l = true) : devWf (devSet l d b) = true := by
  induction l with
  | nil => by_cases hb : b = [] <;> simp [devSet, devWf, hb]
  | cons e rest ih =>
    obtain ⟨k, c⟩ := e
    have h0 := h
    simp only [devWf, Bool.and_eq_true, List.all_eq_true, decide_eq_true_eq] at h
    simp only [devSet]
    split
    · rename_i hlt
      split
      · exact h0
      · rename_i hb
        simp only [devWf, Bool.and_eq_true, List.all_eq_true, decide_eq_true_eq]
        refine ⟨⟨by simpa using hb, ?_⟩, h⟩
        intro x hx
        rcases List.mem_cons.1 hx with rfl | hx
        · exact hlt
        · have := h.1.2 x hx
          omega
    · split
      · rename_i heq
        subst heq
        split
        · exact h.2
        · rename_i hb
          simp only [devWf, Bool.and_eq_true, List.all_eq_true, decide_eq_true_eq]
          exact ⟨⟨by simpa using hb, h.1.2⟩, h.2⟩
      · simp only [devWf, Bool.and_eq_true, List.all_eq_true, decide_eq_true_eq]
        exact ⟨⟨h.1.1, devSet_keys_above rest d k b (by omega) h.1.2⟩, ih h.2⟩

/-- Whatever list of device states a snapshot holds, its canonical form is one. -/
theorem devNorm_wf (l : DevStore) : devWf (devNorm l) = true := by
  induction l with
  | nil => rfl
  | cons e rest ih =>
    obtain ⟨k, b⟩ := e
    exact devSet_wf (devNorm rest) k b ih

theorem devSet_below (l : DevStore) (d : Nat) (b : Blob) (hb : b ≠ []) (h : ∀ x ∈ l, d < x.1) :
    devSet l d b = (d, b) :: l := by
  cases l with
  | nil => simp [devSet, hb]
  | cons e rest =>
    obtain ⟨k, c⟩ := e
    have : d < k := h (k, c) (by simp)
    simp [devSet, this, hb]

/-- A store in canonical form is its own canonical form. -/
theorem devNorm_of_wf (l : DevStore) (h : devWf l = true) : devNorm l = l := by
  induction l with
  | nil => rfl
  | cons e rest ih =>
    obtain ⟨k, b⟩ := e
    simp only [devWf, Bool.and_eq_true, List.all_eq_true, decide_eq_true_eq] at h
    simp only [devNorm, ih h.2]
    exact devSet_below rest k b (by simpa using h.1.1) h.1.2

end Sys2Proof.Machine
end

