-- ==== Sys2Proof/Laws/State.lean ====
section
/-!
SUPPORT. One lemma per field per named update of the state, so that no proof unfolds one. A field an update does not name
is unchanged by it.
-/
namespace Sys2Proof.Machine

variable (s : State)

/-! ## pass -/

@[simp] theorem pass_running : s.pass.running = s.running := rfl
@[simp] theorem pass_started : s.pass.started = s.started := rfl
@[simp] theorem pass_stepMode : s.pass.stepMode = s.stepMode := rfl
@[simp] theorem pass_quota : s.pass.quota = s.quota := rfl
@[simp] theorem pass_region : s.pass.region = s.region := rfl
@[simp] theorem pass_hasSlc : s.pass.hasSlc = s.hasSlc := rfl
@[simp] theorem pass_paused : s.pass.paused = s.paused := rfl
@[simp] theorem pass_sphase : s.pass.sphase = s.sphase := rfl
@[simp] theorem pass_pwaitRet : s.pass.pwaitRet = s.pwaitRet := rfl
@[simp] theorem pass_drainPending : s.pass.drainPending = s.drainPending := rfl
@[simp] theorem pass_cpuCyc : s.pass.cpuCyc = s.cpuCyc := rfl
@[simp] theorem pass_ppuCyc : s.pass.ppuCyc = s.ppuCyc := rfl
@[simp] theorem pass_frameSeq : s.pass.frameSeq = s.frameSeq := rfl
@[simp] theorem pass_fault : s.pass.fault = s.fault := rfl
@[simp] theorem pass_nmiLatch : s.pass.nmiLatch = s.nmiLatch := rfl
@[simp] theorem pass_nmiPrev : s.pass.nmiPrev = s.nmiPrev := rfl
@[simp] theorem pass_mapCpu : s.pass.mapCpu = s.mapCpu := rfl
@[simp] theorem pass_mapPpu : s.pass.mapPpu = s.mapPpu := rfl
@[simp] theorem pass_openBusCpu : s.pass.openBusCpu = s.openBusCpu := rfl
@[simp] theorem pass_openBusPpu : s.pass.openBusPpu = s.openBusPpu := rfl
@[simp] theorem pass_ctrl0 : s.pass.ctrl0 = s.ctrl0 := rfl
@[simp] theorem pass_ctrl1 : s.pass.ctrl1 = s.ctrl1 := rfl
@[simp] theorem pass_evq : s.pass.evq = s.evq := rfl
@[simp] theorem pass_pq : s.pass.pq = s.pq := rfl
@[simp] theorem pass_cphase : s.pass.cphase = s.cphase := rfl
@[simp] theorem pass_curEv : s.pass.curEv = s.curEv := rfl
@[simp] theorem pass_ackValid : s.pass.ackValid = s.ackValid := rfl
@[simp] theorem pass_ackVal : s.pass.ackVal = s.ackVal := rfl
@[simp] theorem pass_showFps : s.pass.showFps = s.showFps := rfl
@[simp] theorem pass_evIllegal : s.pass.evIllegal = s.evIllegal := rfl
@[simp] theorem pass_hostRefused : s.pass.hostRefused = s.hostRefused := rfl
@[simp] theorem pass_consFail : s.pass.consFail = s.consFail := rfl
@[simp] theorem pass_ctlStatus : s.pass.ctlStatus = s.ctlStatus := rfl
@[simp] theorem pass_snapStatus : s.pass.snapStatus = s.snapStatus := rfl
@[simp] theorem pass_cpu : s.pass.cpu = s.cpu := rfl
@[simp] theorem pass_ppu : s.pass.ppu = s.ppu := rfl
@[simp] theorem pass_mapper : s.pass.mapper = s.mapper := rfl
@[simp] theorem pass_dev : s.pass.dev = s.dev := rfl
@[simp] theorem pass_out : s.pass.out = s.out := rfl
@[simp] theorem pass_ctlRdata : s.pass.ctlRdata = s.ctlRdata := rfl
@[simp] theorem pass_busRdata : s.pass.busRdata = s.busRdata := rfl
@[simp] theorem pass_busReq : s.pass.busReq = s.busReq := rfl
@[simp] theorem pass_hostPort : s.pass.hostPort = s.hostPort := rfl
@[simp] theorem pass_turn : s.pass.turn = Config.nextAgent s.tick := rfl
@[simp] theorem pass_tick : s.pass.tick = s.tick + 1 := rfl
@[simp] theorem pass_plat : s.pass.plat = s.plat := rfl

/-! ## emit -/

@[simp] theorem emit_running (r : OutRec) : (s.emit r).running = s.running := rfl
@[simp] theorem emit_started (r : OutRec) : (s.emit r).started = s.started := rfl
@[simp] theorem emit_stepMode (r : OutRec) : (s.emit r).stepMode = s.stepMode := rfl
@[simp] theorem emit_quota (r : OutRec) : (s.emit r).quota = s.quota := rfl
@[simp] theorem emit_region (r : OutRec) : (s.emit r).region = s.region := rfl
@[simp] theorem emit_hasSlc (r : OutRec) : (s.emit r).hasSlc = s.hasSlc := rfl
@[simp] theorem emit_paused (r : OutRec) : (s.emit r).paused = s.paused := rfl
@[simp] theorem emit_sphase (r : OutRec) : (s.emit r).sphase = s.sphase := rfl
@[simp] theorem emit_pwaitRet (r : OutRec) : (s.emit r).pwaitRet = s.pwaitRet := rfl
@[simp] theorem emit_drainPending (r : OutRec) : (s.emit r).drainPending = s.drainPending := rfl
@[simp] theorem emit_cpuCyc (r : OutRec) : (s.emit r).cpuCyc = s.cpuCyc := rfl
@[simp] theorem emit_ppuCyc (r : OutRec) : (s.emit r).ppuCyc = s.ppuCyc := rfl
@[simp] theorem emit_frameSeq (r : OutRec) : (s.emit r).frameSeq = s.frameSeq := rfl
@[simp] theorem emit_fault (r : OutRec) : (s.emit r).fault = s.fault := rfl
@[simp] theorem emit_nmiLatch (r : OutRec) : (s.emit r).nmiLatch = s.nmiLatch := rfl
@[simp] theorem emit_nmiPrev (r : OutRec) : (s.emit r).nmiPrev = s.nmiPrev := rfl
@[simp] theorem emit_mapCpu (r : OutRec) : (s.emit r).mapCpu = s.mapCpu := rfl
@[simp] theorem emit_mapPpu (r : OutRec) : (s.emit r).mapPpu = s.mapPpu := rfl
@[simp] theorem emit_openBusCpu (r : OutRec) : (s.emit r).openBusCpu = s.openBusCpu := rfl
@[simp] theorem emit_openBusPpu (r : OutRec) : (s.emit r).openBusPpu = s.openBusPpu := rfl
@[simp] theorem emit_ctrl0 (r : OutRec) : (s.emit r).ctrl0 = s.ctrl0 := rfl
@[simp] theorem emit_ctrl1 (r : OutRec) : (s.emit r).ctrl1 = s.ctrl1 := rfl
@[simp] theorem emit_evq (r : OutRec) : (s.emit r).evq = s.evq := rfl
@[simp] theorem emit_pq (r : OutRec) : (s.emit r).pq = s.pq := rfl
@[simp] theorem emit_cphase (r : OutRec) : (s.emit r).cphase = s.cphase := rfl
@[simp] theorem emit_curEv (r : OutRec) : (s.emit r).curEv = s.curEv := rfl
@[simp] theorem emit_ackValid (r : OutRec) : (s.emit r).ackValid = s.ackValid := rfl
@[simp] theorem emit_ackVal (r : OutRec) : (s.emit r).ackVal = s.ackVal := rfl
@[simp] theorem emit_showFps (r : OutRec) : (s.emit r).showFps = s.showFps := rfl
@[simp] theorem emit_evIllegal (r : OutRec) : (s.emit r).evIllegal = s.evIllegal := rfl
@[simp] theorem emit_hostRefused (r : OutRec) : (s.emit r).hostRefused = s.hostRefused := rfl
@[simp] theorem emit_consFail (r : OutRec) : (s.emit r).consFail = s.consFail := rfl
@[simp] theorem emit_ctlStatus (r : OutRec) : (s.emit r).ctlStatus = s.ctlStatus := rfl
@[simp] theorem emit_snapStatus (r : OutRec) : (s.emit r).snapStatus = s.snapStatus := rfl
@[simp] theorem emit_cpu (r : OutRec) : (s.emit r).cpu = s.cpu := rfl
@[simp] theorem emit_ppu (r : OutRec) : (s.emit r).ppu = s.ppu := rfl
@[simp] theorem emit_mapper (r : OutRec) : (s.emit r).mapper = s.mapper := rfl
@[simp] theorem emit_dev (r : OutRec) : (s.emit r).dev = s.dev := rfl
@[simp] theorem emit_out (r : OutRec) : (s.emit r).out = s.out ++ [r] := rfl
@[simp] theorem emit_ctlRdata (r : OutRec) : (s.emit r).ctlRdata = s.ctlRdata := rfl
@[simp] theorem emit_busRdata (r : OutRec) : (s.emit r).busRdata = s.busRdata := rfl
@[simp] theorem emit_busReq (r : OutRec) : (s.emit r).busReq = s.busReq := rfl
@[simp] theorem emit_hostPort (r : OutRec) : (s.emit r).hostPort = s.hostPort := rfl
@[simp] theorem emit_turn (r : OutRec) : (s.emit r).turn = s.turn := rfl
@[simp] theorem emit_tick (r : OutRec) : (s.emit r).tick = s.tick := rfl
@[simp] theorem emit_plat (r : OutRec) : (s.emit r).plat = s.plat := rfl

/-! ## pushEv -/

@[simp] theorem pushEv_running (e : EvEntry) : (s.pushEv e).running = s.running := rfl
@[simp] theorem pushEv_started (e : EvEntry) : (s.pushEv e).started = s.started := rfl
@[simp] theorem pushEv_stepMode (e : EvEntry) : (s.pushEv e).stepMode = s.stepMode := rfl
@[simp] theorem pushEv_quota (e : EvEntry) : (s.pushEv e).quota = s.quota := rfl
@[simp] theorem pushEv_region (e : EvEntry) : (s.pushEv e).region = s.region := rfl
@[simp] theorem pushEv_hasSlc (e : EvEntry) : (s.pushEv e).hasSlc = s.hasSlc := rfl
@[simp] theorem pushEv_paused (e : EvEntry) : (s.pushEv e).paused = s.paused := rfl
@[simp] theorem pushEv_sphase (e : EvEntry) : (s.pushEv e).sphase = s.sphase := rfl
@[simp] theorem pushEv_pwaitRet (e : EvEntry) : (s.pushEv e).pwaitRet = s.pwaitRet := rfl
@[simp] theorem pushEv_drainPending (e : EvEntry) : (s.pushEv e).drainPending = s.drainPending := rfl
@[simp] theorem pushEv_cpuCyc (e : EvEntry) : (s.pushEv e).cpuCyc = s.cpuCyc := rfl
@[simp] theorem pushEv_ppuCyc (e : EvEntry) : (s.pushEv e).ppuCyc = s.ppuCyc := rfl
@[simp] theorem pushEv_frameSeq (e : EvEntry) : (s.pushEv e).frameSeq = s.frameSeq := rfl
@[simp] theorem pushEv_fault (e : EvEntry) : (s.pushEv e).fault = s.fault := rfl
@[simp] theorem pushEv_nmiLatch (e : EvEntry) : (s.pushEv e).nmiLatch = s.nmiLatch := rfl
@[simp] theorem pushEv_nmiPrev (e : EvEntry) : (s.pushEv e).nmiPrev = s.nmiPrev := rfl
@[simp] theorem pushEv_mapCpu (e : EvEntry) : (s.pushEv e).mapCpu = s.mapCpu := rfl
@[simp] theorem pushEv_mapPpu (e : EvEntry) : (s.pushEv e).mapPpu = s.mapPpu := rfl
@[simp] theorem pushEv_openBusCpu (e : EvEntry) : (s.pushEv e).openBusCpu = s.openBusCpu := rfl
@[simp] theorem pushEv_openBusPpu (e : EvEntry) : (s.pushEv e).openBusPpu = s.openBusPpu := rfl
@[simp] theorem pushEv_ctrl0 (e : EvEntry) : (s.pushEv e).ctrl0 = s.ctrl0 := rfl
@[simp] theorem pushEv_ctrl1 (e : EvEntry) : (s.pushEv e).ctrl1 = s.ctrl1 := rfl
@[simp] theorem pushEv_evq (e : EvEntry) : (s.pushEv e).evq = s.evq ++ [e] := rfl
@[simp] theorem pushEv_pq (e : EvEntry) : (s.pushEv e).pq = s.pq := rfl
@[simp] theorem pushEv_cphase (e : EvEntry) : (s.pushEv e).cphase = s.cphase := rfl
@[simp] theorem pushEv_curEv (e : EvEntry) : (s.pushEv e).curEv = s.curEv := rfl
@[simp] theorem pushEv_ackValid (e : EvEntry) : (s.pushEv e).ackValid = s.ackValid := rfl
@[simp] theorem pushEv_ackVal (e : EvEntry) : (s.pushEv e).ackVal = s.ackVal := rfl
@[simp] theorem pushEv_showFps (e : EvEntry) : (s.pushEv e).showFps = s.showFps := rfl
@[simp] theorem pushEv_evIllegal (e : EvEntry) : (s.pushEv e).evIllegal = s.evIllegal := rfl
@[simp] theorem pushEv_hostRefused (e : EvEntry) : (s.pushEv e).hostRefused = s.hostRefused := rfl
@[simp] theorem pushEv_consFail (e : EvEntry) : (s.pushEv e).consFail = s.consFail := rfl
@[simp] theorem pushEv_ctlStatus (e : EvEntry) : (s.pushEv e).ctlStatus = s.ctlStatus := rfl
@[simp] theorem pushEv_snapStatus (e : EvEntry) : (s.pushEv e).snapStatus = s.snapStatus := rfl
@[simp] theorem pushEv_cpu (e : EvEntry) : (s.pushEv e).cpu = s.cpu := rfl
@[simp] theorem pushEv_ppu (e : EvEntry) : (s.pushEv e).ppu = s.ppu := rfl
@[simp] theorem pushEv_mapper (e : EvEntry) : (s.pushEv e).mapper = s.mapper := rfl
@[simp] theorem pushEv_dev (e : EvEntry) : (s.pushEv e).dev = s.dev := rfl
@[simp] theorem pushEv_out (e : EvEntry) : (s.pushEv e).out = s.out := rfl
@[simp] theorem pushEv_ctlRdata (e : EvEntry) : (s.pushEv e).ctlRdata = s.ctlRdata := rfl
@[simp] theorem pushEv_busRdata (e : EvEntry) : (s.pushEv e).busRdata = s.busRdata := rfl
@[simp] theorem pushEv_busReq (e : EvEntry) : (s.pushEv e).busReq = s.busReq := rfl
@[simp] theorem pushEv_hostPort (e : EvEntry) : (s.pushEv e).hostPort = s.hostPort := rfl
@[simp] theorem pushEv_turn (e : EvEntry) : (s.pushEv e).turn = s.turn := rfl
@[simp] theorem pushEv_tick (e : EvEntry) : (s.pushEv e).tick = s.tick := rfl
@[simp] theorem pushEv_plat (e : EvEntry) : (s.pushEv e).plat = s.plat := rfl

/-! ## pushPq -/

@[simp] theorem pushPq_running (q : BitVec 16) : (s.pushPq q).running = s.running := rfl
@[simp] theorem pushPq_started (q : BitVec 16) : (s.pushPq q).started = s.started := rfl
@[simp] theorem pushPq_stepMode (q : BitVec 16) : (s.pushPq q).stepMode = s.stepMode := rfl
@[simp] theorem pushPq_quota (q : BitVec 16) : (s.pushPq q).quota = s.quota := rfl
@[simp] theorem pushPq_region (q : BitVec 16) : (s.pushPq q).region = s.region := rfl
@[simp] theorem pushPq_hasSlc (q : BitVec 16) : (s.pushPq q).hasSlc = s.hasSlc := rfl
@[simp] theorem pushPq_paused (q : BitVec 16) : (s.pushPq q).paused = s.paused := rfl
@[simp] theorem pushPq_sphase (q : BitVec 16) : (s.pushPq q).sphase = s.sphase := rfl
@[simp] theorem pushPq_pwaitRet (q : BitVec 16) : (s.pushPq q).pwaitRet = s.pwaitRet := rfl
@[simp] theorem pushPq_drainPending (q : BitVec 16) : (s.pushPq q).drainPending = s.drainPending := rfl
@[simp] theorem pushPq_cpuCyc (q : BitVec 16) : (s.pushPq q).cpuCyc = s.cpuCyc := rfl
@[simp] theorem pushPq_ppuCyc (q : BitVec 16) : (s.pushPq q).ppuCyc = s.ppuCyc := rfl
@[simp] theorem pushPq_frameSeq (q : BitVec 16) : (s.pushPq q).frameSeq = s.frameSeq := rfl
@[simp] theorem pushPq_fault (q : BitVec 16) : (s.pushPq q).fault = s.fault := rfl
@[simp] theorem pushPq_nmiLatch (q : BitVec 16) : (s.pushPq q).nmiLatch = s.nmiLatch := rfl
@[simp] theorem pushPq_nmiPrev (q : BitVec 16) : (s.pushPq q).nmiPrev = s.nmiPrev := rfl
@[simp] theorem pushPq_mapCpu (q : BitVec 16) : (s.pushPq q).mapCpu = s.mapCpu := rfl
@[simp] theorem pushPq_mapPpu (q : BitVec 16) : (s.pushPq q).mapPpu = s.mapPpu := rfl
@[simp] theorem pushPq_openBusCpu (q : BitVec 16) : (s.pushPq q).openBusCpu = s.openBusCpu := rfl
@[simp] theorem pushPq_openBusPpu (q : BitVec 16) : (s.pushPq q).openBusPpu = s.openBusPpu := rfl
@[simp] theorem pushPq_ctrl0 (q : BitVec 16) : (s.pushPq q).ctrl0 = s.ctrl0 := rfl
@[simp] theorem pushPq_ctrl1 (q : BitVec 16) : (s.pushPq q).ctrl1 = s.ctrl1 := rfl
@[simp] theorem pushPq_evq (q : BitVec 16) : (s.pushPq q).evq = s.evq := rfl
@[simp] theorem pushPq_pq (q : BitVec 16) : (s.pushPq q).pq = s.pq ++ [q] := rfl
@[simp] theorem pushPq_cphase (q : BitVec 16) : (s.pushPq q).cphase = s.cphase := rfl
@[simp] theorem pushPq_curEv (q : BitVec 16) : (s.pushPq q).curEv = s.curEv := rfl
@[simp] theorem pushPq_ackValid (q : BitVec 16) : (s.pushPq q).ackValid = s.ackValid := rfl
@[simp] theorem pushPq_ackVal (q : BitVec 16) : (s.pushPq q).ackVal = s.ackVal := rfl
@[simp] theorem pushPq_showFps (q : BitVec 16) : (s.pushPq q).showFps = s.showFps := rfl
@[simp] theorem pushPq_evIllegal (q : BitVec 16) : (s.pushPq q).evIllegal = s.evIllegal := rfl
@[simp] theorem pushPq_hostRefused (q : BitVec 16) : (s.pushPq q).hostRefused = s.hostRefused := rfl
@[simp] theorem pushPq_consFail (q : BitVec 16) : (s.pushPq q).consFail = s.consFail := rfl
@[simp] theorem pushPq_ctlStatus (q : BitVec 16) : (s.pushPq q).ctlStatus = s.ctlStatus := rfl
@[simp] theorem pushPq_snapStatus (q : BitVec 16) : (s.pushPq q).snapStatus = s.snapStatus := rfl
@[simp] theorem pushPq_cpu (q : BitVec 16) : (s.pushPq q).cpu = s.cpu := rfl
@[simp] theorem pushPq_ppu (q : BitVec 16) : (s.pushPq q).ppu = s.ppu := rfl
@[simp] theorem pushPq_mapper (q : BitVec 16) : (s.pushPq q).mapper = s.mapper := rfl
@[simp] theorem pushPq_dev (q : BitVec 16) : (s.pushPq q).dev = s.dev := rfl
@[simp] theorem pushPq_out (q : BitVec 16) : (s.pushPq q).out = s.out := rfl
@[simp] theorem pushPq_ctlRdata (q : BitVec 16) : (s.pushPq q).ctlRdata = s.ctlRdata := rfl
@[simp] theorem pushPq_busRdata (q : BitVec 16) : (s.pushPq q).busRdata = s.busRdata := rfl
@[simp] theorem pushPq_busReq (q : BitVec 16) : (s.pushPq q).busReq = s.busReq := rfl
@[simp] theorem pushPq_hostPort (q : BitVec 16) : (s.pushPq q).hostPort = s.hostPort := rfl
@[simp] theorem pushPq_turn (q : BitVec 16) : (s.pushPq q).turn = s.turn := rfl
@[simp] theorem pushPq_tick (q : BitVec 16) : (s.pushPq q).tick = s.tick := rfl
@[simp] theorem pushPq_plat (q : BitVec 16) : (s.pushPq q).plat = s.plat := rfl

/-! ## setCtl -/

@[simp] theorem setCtl_running (c : CtlStatus) : (s.setCtl c).running = s.running := rfl
@[simp] theorem setCtl_started (c : CtlStatus) : (s.setCtl c).started = s.started := rfl
@[simp] theorem setCtl_stepMode (c : CtlStatus) : (s.setCtl c).stepMode = s.stepMode := rfl
@[simp] theorem setCtl_quota (c : CtlStatus) : (s.setCtl c).quota = s.quota := rfl
@[simp] theorem setCtl_region (c : CtlStatus) : (s.setCtl c).region = s.region := rfl
@[simp] theorem setCtl_hasSlc (c : CtlStatus) : (s.setCtl c).hasSlc = s.hasSlc := rfl
@[simp] theorem setCtl_paused (c : CtlStatus) : (s.setCtl c).paused = s.paused := rfl
@[simp] theorem setCtl_sphase (c : CtlStatus) : (s.setCtl c).sphase = s.sphase := rfl
@[simp] theorem setCtl_pwaitRet (c : CtlStatus) : (s.setCtl c).pwaitRet = s.pwaitRet := rfl
@[simp] theorem setCtl_drainPending (c : CtlStatus) : (s.setCtl c).drainPending = s.drainPending := rfl
@[simp] theorem setCtl_cpuCyc (c : CtlStatus) : (s.setCtl c).cpuCyc = s.cpuCyc := rfl
@[simp] theorem setCtl_ppuCyc (c : CtlStatus) : (s.setCtl c).ppuCyc = s.ppuCyc := rfl
@[simp] theorem setCtl_frameSeq (c : CtlStatus) : (s.setCtl c).frameSeq = s.frameSeq := rfl
@[simp] theorem setCtl_fault (c : CtlStatus) : (s.setCtl c).fault = s.fault := rfl
@[simp] theorem setCtl_nmiLatch (c : CtlStatus) : (s.setCtl c).nmiLatch = s.nmiLatch := rfl
@[simp] theorem setCtl_nmiPrev (c : CtlStatus) : (s.setCtl c).nmiPrev = s.nmiPrev := rfl
@[simp] theorem setCtl_mapCpu (c : CtlStatus) : (s.setCtl c).mapCpu = s.mapCpu := rfl
@[simp] theorem setCtl_mapPpu (c : CtlStatus) : (s.setCtl c).mapPpu = s.mapPpu := rfl
@[simp] theorem setCtl_openBusCpu (c : CtlStatus) : (s.setCtl c).openBusCpu = s.openBusCpu := rfl
@[simp] theorem setCtl_openBusPpu (c : CtlStatus) : (s.setCtl c).openBusPpu = s.openBusPpu := rfl
@[simp] theorem setCtl_ctrl0 (c : CtlStatus) : (s.setCtl c).ctrl0 = s.ctrl0 := rfl
@[simp] theorem setCtl_ctrl1 (c : CtlStatus) : (s.setCtl c).ctrl1 = s.ctrl1 := rfl
@[simp] theorem setCtl_evq (c : CtlStatus) : (s.setCtl c).evq = s.evq := rfl
@[simp] theorem setCtl_pq (c : CtlStatus) : (s.setCtl c).pq = s.pq := rfl
@[simp] theorem setCtl_cphase (c : CtlStatus) : (s.setCtl c).cphase = s.cphase := rfl
@[simp] theorem setCtl_curEv (c : CtlStatus) : (s.setCtl c).curEv = s.curEv := rfl
@[simp] theorem setCtl_ackValid (c : CtlStatus) : (s.setCtl c).ackValid = s.ackValid := rfl
@[simp] theorem setCtl_ackVal (c : CtlStatus) : (s.setCtl c).ackVal = s.ackVal := rfl
@[simp] theorem setCtl_showFps (c : CtlStatus) : (s.setCtl c).showFps = s.showFps := rfl
@[simp] theorem setCtl_evIllegal (c : CtlStatus) : (s.setCtl c).evIllegal = s.evIllegal := rfl
@[simp] theorem setCtl_hostRefused (c : CtlStatus) : (s.setCtl c).hostRefused = s.hostRefused := rfl
@[simp] theorem setCtl_consFail (c : CtlStatus) : (s.setCtl c).consFail = s.consFail := rfl
@[simp] theorem setCtl_ctlStatus (c : CtlStatus) : (s.setCtl c).ctlStatus = c := rfl
@[simp] theorem setCtl_snapStatus (c : CtlStatus) : (s.setCtl c).snapStatus = s.snapStatus := rfl
@[simp] theorem setCtl_cpu (c : CtlStatus) : (s.setCtl c).cpu = s.cpu := rfl
@[simp] theorem setCtl_ppu (c : CtlStatus) : (s.setCtl c).ppu = s.ppu := rfl
@[simp] theorem setCtl_mapper (c : CtlStatus) : (s.setCtl c).mapper = s.mapper := rfl
@[simp] theorem setCtl_dev (c : CtlStatus) : (s.setCtl c).dev = s.dev := rfl
@[simp] theorem setCtl_out (c : CtlStatus) : (s.setCtl c).out = s.out := rfl
@[simp] theorem setCtl_ctlRdata (c : CtlStatus) : (s.setCtl c).ctlRdata = s.ctlRdata := rfl
@[simp] theorem setCtl_busRdata (c : CtlStatus) : (s.setCtl c).busRdata = s.busRdata := rfl
@[simp] theorem setCtl_busReq (c : CtlStatus) : (s.setCtl c).busReq = s.busReq := rfl
@[simp] theorem setCtl_hostPort (c : CtlStatus) : (s.setCtl c).hostPort = s.hostPort := rfl
@[simp] theorem setCtl_turn (c : CtlStatus) : (s.setCtl c).turn = s.turn := rfl
@[simp] theorem setCtl_tick (c : CtlStatus) : (s.setCtl c).tick = s.tick := rfl
@[simp] theorem setCtl_plat (c : CtlStatus) : (s.setCtl c).plat = s.plat := rfl

/-! ## failConstruction -/

@[simp] theorem failConstruction_running (c : CtlStatus) : (s.failConstruction c).running = s.running := rfl
@[simp] theorem failConstruction_started (c : CtlStatus) : (s.failConstruction c).started = s.started := rfl
@[simp] theorem failConstruction_stepMode (c : CtlStatus) : (s.failConstruction c).stepMode = s.stepMode := rfl
@[simp] theorem failConstruction_quota (c : CtlStatus) : (s.failConstruction c).quota = s.quota := rfl
@[simp] theorem failConstruction_region (c : CtlStatus) : (s.failConstruction c).region = s.region := rfl
@[simp] theorem failConstruction_hasSlc (c : CtlStatus) : (s.failConstruction c).hasSlc = s.hasSlc := rfl
@[simp] theorem failConstruction_paused (c : CtlStatus) : (s.failConstruction c).paused = s.paused := rfl
@[simp] theorem failConstruction_sphase (c : CtlStatus) : (s.failConstruction c).sphase = s.sphase := rfl
@[simp] theorem failConstruction_pwaitRet (c : CtlStatus) : (s.failConstruction c).pwaitRet = s.pwaitRet := rfl
@[simp] theorem failConstruction_drainPending (c : CtlStatus) : (s.failConstruction c).drainPending = s.drainPending := rfl
@[simp] theorem failConstruction_cpuCyc (c : CtlStatus) : (s.failConstruction c).cpuCyc = s.cpuCyc := rfl
@[simp] theorem failConstruction_ppuCyc (c : CtlStatus) : (s.failConstruction c).ppuCyc = s.ppuCyc := rfl
@[simp] theorem failConstruction_frameSeq (c : CtlStatus) : (s.failConstruction c).frameSeq = s.frameSeq := rfl
@[simp] theorem failConstruction_fault (c : CtlStatus) : (s.failConstruction c).fault = s.fault := rfl
@[simp] theorem failConstruction_nmiLatch (c : CtlStatus) : (s.failConstruction c).nmiLatch = s.nmiLatch := rfl
@[simp] theorem failConstruction_nmiPrev (c : CtlStatus) : (s.failConstruction c).nmiPrev = s.nmiPrev := rfl
@[simp] theorem failConstruction_mapCpu (c : CtlStatus) : (s.failConstruction c).mapCpu = s.mapCpu := rfl
@[simp] theorem failConstruction_mapPpu (c : CtlStatus) : (s.failConstruction c).mapPpu = s.mapPpu := rfl
@[simp] theorem failConstruction_openBusCpu (c : CtlStatus) : (s.failConstruction c).openBusCpu = s.openBusCpu := rfl
@[simp] theorem failConstruction_openBusPpu (c : CtlStatus) : (s.failConstruction c).openBusPpu = s.openBusPpu := rfl
@[simp] theorem failConstruction_ctrl0 (c : CtlStatus) : (s.failConstruction c).ctrl0 = s.ctrl0 := rfl
@[simp] theorem failConstruction_ctrl1 (c : CtlStatus) : (s.failConstruction c).ctrl1 = s.ctrl1 := rfl
@[simp] theorem failConstruction_evq (c : CtlStatus) : (s.failConstruction c).evq = s.evq := rfl
@[simp] theorem failConstruction_pq (c : CtlStatus) : (s.failConstruction c).pq = s.pq := rfl
@[simp] theorem failConstruction_cphase (c : CtlStatus) : (s.failConstruction c).cphase = s.cphase := rfl
@[simp] theorem failConstruction_curEv (c : CtlStatus) : (s.failConstruction c).curEv = s.curEv := rfl
@[simp] theorem failConstruction_ackValid (c : CtlStatus) : (s.failConstruction c).ackValid = s.ackValid := rfl
@[simp] theorem failConstruction_ackVal (c : CtlStatus) : (s.failConstruction c).ackVal = s.ackVal := rfl
@[simp] theorem failConstruction_showFps (c : CtlStatus) : (s.failConstruction c).showFps = s.showFps := rfl
@[simp] theorem failConstruction_evIllegal (c : CtlStatus) : (s.failConstruction c).evIllegal = s.evIllegal := rfl
@[simp] theorem failConstruction_hostRefused (c : CtlStatus) : (s.failConstruction c).hostRefused = s.hostRefused := rfl
@[simp] theorem failConstruction_consFail (c : CtlStatus) : (s.failConstruction c).consFail = true := rfl
@[simp] theorem failConstruction_ctlStatus (c : CtlStatus) : (s.failConstruction c).ctlStatus = c := rfl
@[simp] theorem failConstruction_snapStatus (c : CtlStatus) : (s.failConstruction c).snapStatus = s.snapStatus := rfl
@[simp] theorem failConstruction_cpu (c : CtlStatus) : (s.failConstruction c).cpu = s.cpu := rfl
@[simp] theorem failConstruction_ppu (c : CtlStatus) : (s.failConstruction c).ppu = s.ppu := rfl
@[simp] theorem failConstruction_mapper (c : CtlStatus) : (s.failConstruction c).mapper = s.mapper := rfl
@[simp] theorem failConstruction_dev (c : CtlStatus) : (s.failConstruction c).dev = s.dev := rfl
@[simp] theorem failConstruction_out (c : CtlStatus) : (s.failConstruction c).out = s.out := rfl
@[simp] theorem failConstruction_ctlRdata (c : CtlStatus) : (s.failConstruction c).ctlRdata = s.ctlRdata := rfl
@[simp] theorem failConstruction_busRdata (c : CtlStatus) : (s.failConstruction c).busRdata = s.busRdata := rfl
@[simp] theorem failConstruction_busReq (c : CtlStatus) : (s.failConstruction c).busReq = s.busReq := rfl
@[simp] theorem failConstruction_hostPort (c : CtlStatus) : (s.failConstruction c).hostPort = s.hostPort := rfl
@[simp] theorem failConstruction_turn (c : CtlStatus) : (s.failConstruction c).turn = s.turn := rfl
@[simp] theorem failConstruction_tick (c : CtlStatus) : (s.failConstruction c).tick = s.tick := rfl
@[simp] theorem failConstruction_plat (c : CtlStatus) : (s.failConstruction c).plat = s.plat := rfl

/-! ## illegalCtl -/

@[simp] theorem illegalCtl_running : (illegalCtl s).running = s.running := rfl
@[simp] theorem illegalCtl_started : (illegalCtl s).started = s.started := rfl
@[simp] theorem illegalCtl_stepMode : (illegalCtl s).stepMode = s.stepMode := rfl
@[simp] theorem illegalCtl_quota : (illegalCtl s).quota = s.quota := rfl
@[simp] theorem illegalCtl_region : (illegalCtl s).region = s.region := rfl
@[simp] theorem illegalCtl_hasSlc : (illegalCtl s).hasSlc = s.hasSlc := rfl
@[simp] theorem illegalCtl_paused : (illegalCtl s).paused = s.paused := rfl
@[simp] theorem illegalCtl_sphase : (illegalCtl s).sphase = s.sphase := rfl
@[simp] theorem illegalCtl_pwaitRet : (illegalCtl s).pwaitRet = s.pwaitRet := rfl
@[simp] theorem illegalCtl_drainPending : (illegalCtl s).drainPending = s.drainPending := rfl
@[simp] theorem illegalCtl_cpuCyc : (illegalCtl s).cpuCyc = s.cpuCyc := rfl
@[simp] theorem illegalCtl_ppuCyc : (illegalCtl s).ppuCyc = s.ppuCyc := rfl
@[simp] theorem illegalCtl_frameSeq : (illegalCtl s).frameSeq = s.frameSeq := rfl
@[simp] theorem illegalCtl_fault : (illegalCtl s).fault = s.fault := rfl
@[simp] theorem illegalCtl_nmiLatch : (illegalCtl s).nmiLatch = s.nmiLatch := rfl
@[simp] theorem illegalCtl_nmiPrev : (illegalCtl s).nmiPrev = s.nmiPrev := rfl
@[simp] theorem illegalCtl_mapCpu : (illegalCtl s).mapCpu = s.mapCpu := rfl
@[simp] theorem illegalCtl_mapPpu : (illegalCtl s).mapPpu = s.mapPpu := rfl
@[simp] theorem illegalCtl_openBusCpu : (illegalCtl s).openBusCpu = s.openBusCpu := rfl
@[simp] theorem illegalCtl_openBusPpu : (illegalCtl s).openBusPpu = s.openBusPpu := rfl
@[simp] theorem illegalCtl_ctrl0 : (illegalCtl s).ctrl0 = s.ctrl0 := rfl
@[simp] theorem illegalCtl_ctrl1 : (illegalCtl s).ctrl1 = s.ctrl1 := rfl
@[simp] theorem illegalCtl_evq : (illegalCtl s).evq = s.evq := rfl
@[simp] theorem illegalCtl_pq : (illegalCtl s).pq = s.pq := rfl
@[simp] theorem illegalCtl_cphase : (illegalCtl s).cphase = s.cphase := rfl
@[simp] theorem illegalCtl_curEv : (illegalCtl s).curEv = s.curEv := rfl
@[simp] theorem illegalCtl_ackValid : (illegalCtl s).ackValid = s.ackValid := rfl
@[simp] theorem illegalCtl_ackVal : (illegalCtl s).ackVal = s.ackVal := rfl
@[simp] theorem illegalCtl_showFps : (illegalCtl s).showFps = s.showFps := rfl
@[simp] theorem illegalCtl_evIllegal : (illegalCtl s).evIllegal = s.evIllegal := rfl
@[simp] theorem illegalCtl_hostRefused : (illegalCtl s).hostRefused = s.hostRefused := rfl
@[simp] theorem illegalCtl_consFail : (illegalCtl s).consFail = s.consFail := rfl
@[simp] theorem illegalCtl_ctlStatus : (illegalCtl s).ctlStatus = .illegal := rfl
@[simp] theorem illegalCtl_snapStatus : (illegalCtl s).snapStatus = s.snapStatus := rfl
@[simp] theorem illegalCtl_cpu : (illegalCtl s).cpu = s.cpu := rfl
@[simp] theorem illegalCtl_ppu : (illegalCtl s).ppu = s.ppu := rfl
@[simp] theorem illegalCtl_mapper : (illegalCtl s).mapper = s.mapper := rfl
@[simp] theorem illegalCtl_dev : (illegalCtl s).dev = s.dev := rfl
@[simp] theorem illegalCtl_out : (illegalCtl s).out = s.out := rfl
@[simp] theorem illegalCtl_ctlRdata : (illegalCtl s).ctlRdata = 0 := rfl
@[simp] theorem illegalCtl_busRdata : (illegalCtl s).busRdata = s.busRdata := rfl
@[simp] theorem illegalCtl_busReq : (illegalCtl s).busReq = s.busReq := rfl
@[simp] theorem illegalCtl_hostPort : (illegalCtl s).hostPort = s.hostPort := rfl
@[simp] theorem illegalCtl_turn : (illegalCtl s).turn = s.turn := rfl
@[simp] theorem illegalCtl_tick : (illegalCtl s).tick = s.tick := rfl
@[simp] theorem illegalCtl_plat : (illegalCtl s).plat = s.plat := rfl

/-! ## discardEvent -/

@[simp] theorem discardEvent_running : (discardEvent s).running = s.running := rfl
@[simp] theorem discardEvent_started : (discardEvent s).started = s.started := rfl
@[simp] theorem discardEvent_stepMode : (discardEvent s).stepMode = s.stepMode := rfl
@[simp] theorem discardEvent_quota : (discardEvent s).quota = s.quota := rfl
@[simp] theorem discardEvent_region : (discardEvent s).region = s.region := rfl
@[simp] theorem discardEvent_hasSlc : (discardEvent s).hasSlc = s.hasSlc := rfl
@[simp] theorem discardEvent_paused : (discardEvent s).paused = s.paused := rfl
@[simp] theorem discardEvent_sphase : (discardEvent s).sphase = s.sphase := rfl
@[simp] theorem discardEvent_pwaitRet : (discardEvent s).pwaitRet = s.pwaitRet := rfl
@[simp] theorem discardEvent_drainPending : (discardEvent s).drainPending = s.drainPending := rfl
@[simp] theorem discardEvent_cpuCyc : (discardEvent s).cpuCyc = s.cpuCyc := rfl
@[simp] theorem discardEvent_ppuCyc : (discardEvent s).ppuCyc = s.ppuCyc := rfl
@[simp] theorem discardEvent_frameSeq : (discardEvent s).frameSeq = s.frameSeq := rfl
@[simp] theorem discardEvent_fault : (discardEvent s).fault = s.fault := rfl
@[simp] theorem discardEvent_nmiLatch : (discardEvent s).nmiLatch = s.nmiLatch := rfl
@[simp] theorem discardEvent_nmiPrev : (discardEvent s).nmiPrev = s.nmiPrev := rfl
@[simp] theorem discardEvent_mapCpu : (discardEvent s).mapCpu = s.mapCpu := rfl
@[simp] theorem discardEvent_mapPpu : (discardEvent s).mapPpu = s.mapPpu := rfl
@[simp] theorem discardEvent_openBusCpu : (discardEvent s).openBusCpu = s.openBusCpu := rfl
@[simp] theorem discardEvent_openBusPpu : (discardEvent s).openBusPpu = s.openBusPpu := rfl
@[simp] theorem discardEvent_ctrl0 : (discardEvent s).ctrl0 = s.ctrl0 := rfl
@[simp] theorem discardEvent_ctrl1 : (discardEvent s).ctrl1 = s.ctrl1 := rfl
@[simp] theorem discardEvent_evq : (discardEvent s).evq = s.evq := rfl
@[simp] theorem discardEvent_pq : (discardEvent s).pq = s.pq := rfl
@[simp] theorem discardEvent_cphase : (discardEvent s).cphase = s.cphase := rfl
@[simp] theorem discardEvent_curEv : (discardEvent s).curEv = s.curEv := rfl
@[simp] theorem discardEvent_ackValid : (discardEvent s).ackValid = s.ackValid := rfl
@[simp] theorem discardEvent_ackVal : (discardEvent s).ackVal = s.ackVal := rfl
@[simp] theorem discardEvent_showFps : (discardEvent s).showFps = s.showFps := rfl
@[simp] theorem discardEvent_evIllegal : (discardEvent s).evIllegal = true := rfl
@[simp] theorem discardEvent_hostRefused : (discardEvent s).hostRefused = s.hostRefused := rfl
@[simp] theorem discardEvent_consFail : (discardEvent s).consFail = s.consFail := rfl
@[simp] theorem discardEvent_ctlStatus : (discardEvent s).ctlStatus = s.ctlStatus := rfl
@[simp] theorem discardEvent_snapStatus : (discardEvent s).snapStatus = s.snapStatus := rfl
@[simp] theorem discardEvent_cpu : (discardEvent s).cpu = s.cpu := rfl
@[simp] theorem discardEvent_ppu : (discardEvent s).ppu = s.ppu := rfl
@[simp] theorem discardEvent_mapper : (discardEvent s).mapper = s.mapper := rfl
@[simp] theorem discardEvent_dev : (discardEvent s).dev = s.dev := rfl
@[simp] theorem discardEvent_out : (discardEvent s).out = s.out := rfl
@[simp] theorem discardEvent_ctlRdata : (discardEvent s).ctlRdata = s.ctlRdata := rfl
@[simp] theorem discardEvent_busRdata : (discardEvent s).busRdata = s.busRdata := rfl
@[simp] theorem discardEvent_busReq : (discardEvent s).busReq = s.busReq := rfl
@[simp] theorem discardEvent_hostPort : (discardEvent s).hostPort = s.hostPort := rfl
@[simp] theorem discardEvent_turn : (discardEvent s).turn = s.turn := rfl
@[simp] theorem discardEvent_tick : (discardEvent s).tick = s.tick := rfl
@[simp] theorem discardEvent_plat : (discardEvent s).plat = s.plat := rfl

/-! ## nmiSample -/

@[simp] theorem nmiSample_running (l : Bool) : (nmiSample l s).running = s.running := rfl
@[simp] theorem nmiSample_started (l : Bool) : (nmiSample l s).started = s.started := rfl
@[simp] theorem nmiSample_stepMode (l : Bool) : (nmiSample l s).stepMode = s.stepMode := rfl
@[simp] theorem nmiSample_quota (l : Bool) : (nmiSample l s).quota = s.quota := rfl
@[simp] theorem nmiSample_region (l : Bool) : (nmiSample l s).region = s.region := rfl
@[simp] theorem nmiSample_hasSlc (l : Bool) : (nmiSample l s).hasSlc = s.hasSlc := rfl
@[simp] theorem nmiSample_paused (l : Bool) : (nmiSample l s).paused = s.paused := rfl
@[simp] theorem nmiSample_sphase (l : Bool) : (nmiSample l s).sphase = s.sphase := rfl
@[simp] theorem nmiSample_pwaitRet (l : Bool) : (nmiSample l s).pwaitRet = s.pwaitRet := rfl
@[simp] theorem nmiSample_drainPending (l : Bool) : (nmiSample l s).drainPending = s.drainPending := rfl
@[simp] theorem nmiSample_cpuCyc (l : Bool) : (nmiSample l s).cpuCyc = s.cpuCyc := rfl
@[simp] theorem nmiSample_ppuCyc (l : Bool) : (nmiSample l s).ppuCyc = s.ppuCyc := rfl
@[simp] theorem nmiSample_frameSeq (l : Bool) : (nmiSample l s).frameSeq = s.frameSeq := rfl
@[simp] theorem nmiSample_fault (l : Bool) : (nmiSample l s).fault = s.fault := rfl
@[simp] theorem nmiSample_nmiLatch (l : Bool) : (nmiSample l s).nmiLatch = (s.nmiLatch || (l && !s.nmiPrev)) := rfl
@[simp] theorem nmiSample_nmiPrev (l : Bool) : (nmiSample l s).nmiPrev = l := rfl
@[simp] theorem nmiSample_mapCpu (l : Bool) : (nmiSample l s).mapCpu = s.mapCpu := rfl
@[simp] theorem nmiSample_mapPpu (l : Bool) : (nmiSample l s).mapPpu = s.mapPpu := rfl
@[simp] theorem nmiSample_openBusCpu (l : Bool) : (nmiSample l s).openBusCpu = s.openBusCpu := rfl
@[simp] theorem nmiSample_openBusPpu (l : Bool) : (nmiSample l s).openBusPpu = s.openBusPpu := rfl
@[simp] theorem nmiSample_ctrl0 (l : Bool) : (nmiSample l s).ctrl0 = s.ctrl0 := rfl
@[simp] theorem nmiSample_ctrl1 (l : Bool) : (nmiSample l s).ctrl1 = s.ctrl1 := rfl
@[simp] theorem nmiSample_evq (l : Bool) : (nmiSample l s).evq = s.evq := rfl
@[simp] theorem nmiSample_pq (l : Bool) : (nmiSample l s).pq = s.pq := rfl
@[simp] theorem nmiSample_cphase (l : Bool) : (nmiSample l s).cphase = s.cphase := rfl
@[simp] theorem nmiSample_curEv (l : Bool) : (nmiSample l s).curEv = s.curEv := rfl
@[simp] theorem nmiSample_ackValid (l : Bool) : (nmiSample l s).ackValid = s.ackValid := rfl
@[simp] theorem nmiSample_ackVal (l : Bool) : (nmiSample l s).ackVal = s.ackVal := rfl
@[simp] theorem nmiSample_showFps (l : Bool) : (nmiSample l s).showFps = s.showFps := rfl
@[simp] theorem nmiSample_evIllegal (l : Bool) : (nmiSample l s).evIllegal = s.evIllegal := rfl
@[simp] theorem nmiSample_hostRefused (l : Bool) : (nmiSample l s).hostRefused = s.hostRefused := rfl
@[simp] theorem nmiSample_consFail (l : Bool) : (nmiSample l s).consFail = s.consFail := rfl
@[simp] theorem nmiSample_ctlStatus (l : Bool) : (nmiSample l s).ctlStatus = s.ctlStatus := rfl
@[simp] theorem nmiSample_snapStatus (l : Bool) : (nmiSample l s).snapStatus = s.snapStatus := rfl
@[simp] theorem nmiSample_cpu (l : Bool) : (nmiSample l s).cpu = s.cpu := rfl
@[simp] theorem nmiSample_ppu (l : Bool) : (nmiSample l s).ppu = s.ppu := rfl
@[simp] theorem nmiSample_mapper (l : Bool) : (nmiSample l s).mapper = s.mapper := rfl
@[simp] theorem nmiSample_dev (l : Bool) : (nmiSample l s).dev = s.dev := rfl
@[simp] theorem nmiSample_out (l : Bool) : (nmiSample l s).out = s.out := rfl
@[simp] theorem nmiSample_ctlRdata (l : Bool) : (nmiSample l s).ctlRdata = s.ctlRdata := rfl
@[simp] theorem nmiSample_busRdata (l : Bool) : (nmiSample l s).busRdata = s.busRdata := rfl
@[simp] theorem nmiSample_busReq (l : Bool) : (nmiSample l s).busReq = s.busReq := rfl
@[simp] theorem nmiSample_hostPort (l : Bool) : (nmiSample l s).hostPort = s.hostPort := rfl
@[simp] theorem nmiSample_turn (l : Bool) : (nmiSample l s).turn = s.turn := rfl
@[simp] theorem nmiSample_tick (l : Bool) : (nmiSample l s).tick = s.tick := rfl
@[simp] theorem nmiSample_plat (l : Bool) : (nmiSample l s).plat = s.plat := rfl

/-! ## fatalEntry -/

@[simp] theorem fatalEntry_running (c : FaultCode) : (fatalEntry c s).running = false := rfl
@[simp] theorem fatalEntry_started (c : FaultCode) : (fatalEntry c s).started = s.started := rfl
@[simp] theorem fatalEntry_stepMode (c : FaultCode) : (fatalEntry c s).stepMode = s.stepMode := rfl
@[simp] theorem fatalEntry_quota (c : FaultCode) : (fatalEntry c s).quota = s.quota := rfl
@[simp] theorem fatalEntry_region (c : FaultCode) : (fatalEntry c s).region = s.region := rfl
@[simp] theorem fatalEntry_hasSlc (c : FaultCode) : (fatalEntry c s).hasSlc = s.hasSlc := rfl
@[simp] theorem fatalEntry_paused (c : FaultCode) : (fatalEntry c s).paused = s.paused := rfl
@[simp] theorem fatalEntry_sphase (c : FaultCode) : (fatalEntry c s).sphase = s.sphase := rfl
@[simp] theorem fatalEntry_pwaitRet (c : FaultCode) : (fatalEntry c s).pwaitRet = s.pwaitRet := rfl
@[simp] theorem fatalEntry_drainPending (c : FaultCode) : (fatalEntry c s).drainPending = s.drainPending := rfl
@[simp] theorem fatalEntry_cpuCyc (c : FaultCode) : (fatalEntry c s).cpuCyc = s.cpuCyc := rfl
@[simp] theorem fatalEntry_ppuCyc (c : FaultCode) : (fatalEntry c s).ppuCyc = s.ppuCyc := rfl
@[simp] theorem fatalEntry_frameSeq (c : FaultCode) : (fatalEntry c s).frameSeq = s.frameSeq := rfl
@[simp] theorem fatalEntry_fault (c : FaultCode) : (fatalEntry c s).fault = (if s.fault = .none then c else s.fault) := rfl
@[simp] theorem fatalEntry_nmiLatch (c : FaultCode) : (fatalEntry c s).nmiLatch = s.nmiLatch := rfl
@[simp] theorem fatalEntry_nmiPrev (c : FaultCode) : (fatalEntry c s).nmiPrev = s.nmiPrev := rfl
@[simp] theorem fatalEntry_mapCpu (c : FaultCode) : (fatalEntry c s).mapCpu = s.mapCpu := rfl
@[simp] theorem fatalEntry_mapPpu (c : FaultCode) : (fatalEntry c s).mapPpu = s.mapPpu := rfl
@[simp] theorem fatalEntry_openBusCpu (c : FaultCode) : (fatalEntry c s).openBusCpu = s.openBusCpu := rfl
@[simp] theorem fatalEntry_openBusPpu (c : FaultCode) : (fatalEntry c s).openBusPpu = s.openBusPpu := rfl
@[simp] theorem fatalEntry_ctrl0 (c : FaultCode) : (fatalEntry c s).ctrl0 = s.ctrl0 := rfl
@[simp] theorem fatalEntry_ctrl1 (c : FaultCode) : (fatalEntry c s).ctrl1 = s.ctrl1 := rfl
@[simp] theorem fatalEntry_evq (c : FaultCode) : (fatalEntry c s).evq = s.evq := rfl
@[simp] theorem fatalEntry_pq (c : FaultCode) : (fatalEntry c s).pq = s.pq := rfl
@[simp] theorem fatalEntry_cphase (c : FaultCode) : (fatalEntry c s).cphase = s.cphase := rfl
@[simp] theorem fatalEntry_curEv (c : FaultCode) : (fatalEntry c s).curEv = s.curEv := rfl
@[simp] theorem fatalEntry_ackValid (c : FaultCode) : (fatalEntry c s).ackValid = s.ackValid := rfl
@[simp] theorem fatalEntry_ackVal (c : FaultCode) : (fatalEntry c s).ackVal = s.ackVal := rfl
@[simp] theorem fatalEntry_showFps (c : FaultCode) : (fatalEntry c s).showFps = s.showFps := rfl
@[simp] theorem fatalEntry_evIllegal (c : FaultCode) : (fatalEntry c s).evIllegal = s.evIllegal := rfl
@[simp] theorem fatalEntry_hostRefused (c : FaultCode) : (fatalEntry c s).hostRefused = s.hostRefused := rfl
@[simp] theorem fatalEntry_consFail (c : FaultCode) : (fatalEntry c s).consFail = s.consFail := rfl
@[simp] theorem fatalEntry_ctlStatus (c : FaultCode) : (fatalEntry c s).ctlStatus = s.ctlStatus := rfl
@[simp] theorem fatalEntry_snapStatus (c : FaultCode) : (fatalEntry c s).snapStatus = s.snapStatus := rfl
@[simp] theorem fatalEntry_cpu (c : FaultCode) : (fatalEntry c s).cpu = s.cpu := rfl
@[simp] theorem fatalEntry_ppu (c : FaultCode) : (fatalEntry c s).ppu = s.ppu := rfl
@[simp] theorem fatalEntry_mapper (c : FaultCode) : (fatalEntry c s).mapper = s.mapper := rfl
@[simp] theorem fatalEntry_dev (c : FaultCode) : (fatalEntry c s).dev = s.dev := rfl
@[simp] theorem fatalEntry_out (c : FaultCode) : (fatalEntry c s).out = s.out ++ [.fatal c] := rfl
@[simp] theorem fatalEntry_ctlRdata (c : FaultCode) : (fatalEntry c s).ctlRdata = s.ctlRdata := rfl
@[simp] theorem fatalEntry_busRdata (c : FaultCode) : (fatalEntry c s).busRdata = s.busRdata := rfl
@[simp] theorem fatalEntry_busReq (c : FaultCode) : (fatalEntry c s).busReq = s.busReq := rfl
@[simp] theorem fatalEntry_hostPort (c : FaultCode) : (fatalEntry c s).hostPort = s.hostPort := rfl
@[simp] theorem fatalEntry_turn (c : FaultCode) : (fatalEntry c s).turn = s.turn := rfl
@[simp] theorem fatalEntry_tick (c : FaultCode) : (fatalEntry c s).tick = s.tick := rfl
@[simp] theorem fatalEntry_plat (c : FaultCode) : (fatalEntry c s).plat = s.plat := rfl

/-! ## fatalInTop -/

@[simp] theorem fatalInTop_running (c : FaultCode) : (fatalInTop c s).running = false := rfl
@[simp] theorem fatalInTop_started (c : FaultCode) : (fatalInTop c s).started = s.started := rfl
@[simp] theorem fatalInTop_stepMode (c : FaultCode) : (fatalInTop c s).stepMode = s.stepMode := rfl
@[simp] theorem fatalInTop_quota (c : FaultCode) : (fatalInTop c s).quota = s.quota := rfl
@[simp] theorem fatalInTop_region (c : FaultCode) : (fatalInTop c s).region = s.region := rfl
@[simp] theorem fatalInTop_hasSlc (c : FaultCode) : (fatalInTop c s).hasSlc = s.hasSlc := rfl
@[simp] theorem fatalInTop_paused (c : FaultCode) : (fatalInTop c s).paused = s.paused := rfl
@[simp] theorem fatalInTop_sphase (c : FaultCode) : (fatalInTop c s).sphase = SPhase.halt := rfl
@[simp] theorem fatalInTop_pwaitRet (c : FaultCode) : (fatalInTop c s).pwaitRet = s.pwaitRet := rfl
@[simp] theorem fatalInTop_drainPending (c : FaultCode) : (fatalInTop c s).drainPending = s.drainPending := rfl
@[simp] theorem fatalInTop_cpuCyc (c : FaultCode) : (fatalInTop c s).cpuCyc = s.cpuCyc := rfl
@[simp] theorem fatalInTop_ppuCyc (c : FaultCode) : (fatalInTop c s).ppuCyc = s.ppuCyc := rfl
@[simp] theorem fatalInTop_frameSeq (c : FaultCode) : (fatalInTop c s).frameSeq = s.frameSeq := rfl
@[simp] theorem fatalInTop_fault (c : FaultCode) : (fatalInTop c s).fault = (if s.fault = .none then c else s.fault) := rfl
@[simp] theorem fatalInTop_nmiLatch (c : FaultCode) : (fatalInTop c s).nmiLatch = s.nmiLatch := rfl
@[simp] theorem fatalInTop_nmiPrev (c : FaultCode) : (fatalInTop c s).nmiPrev = s.nmiPrev := rfl
@[simp] theorem fatalInTop_mapCpu (c : FaultCode) : (fatalInTop c s).mapCpu = s.mapCpu := rfl
@[simp] theorem fatalInTop_mapPpu (c : FaultCode) : (fatalInTop c s).mapPpu = s.mapPpu := rfl
@[simp] theorem fatalInTop_openBusCpu (c : FaultCode) : (fatalInTop c s).openBusCpu = s.openBusCpu := rfl
@[simp] theorem fatalInTop_openBusPpu (c : FaultCode) : (fatalInTop c s).openBusPpu = s.openBusPpu := rfl
@[simp] theorem fatalInTop_ctrl0 (c : FaultCode) : (fatalInTop c s).ctrl0 = s.ctrl0 := rfl
@[simp] theorem fatalInTop_ctrl1 (c : FaultCode) : (fatalInTop c s).ctrl1 = s.ctrl1 := rfl
@[simp] theorem fatalInTop_evq (c : FaultCode) : (fatalInTop c s).evq = s.evq := rfl
@[simp] theorem fatalInTop_pq (c : FaultCode) : (fatalInTop c s).pq = s.pq := rfl
@[simp] theorem fatalInTop_cphase (c : FaultCode) : (fatalInTop c s).cphase = s.cphase := rfl
@[simp] theorem fatalInTop_curEv (c : FaultCode) : (fatalInTop c s).curEv = s.curEv := rfl
@[simp] theorem fatalInTop_ackValid (c : FaultCode) : (fatalInTop c s).ackValid = s.ackValid := rfl
@[simp] theorem fatalInTop_ackVal (c : FaultCode) : (fatalInTop c s).ackVal = s.ackVal := rfl
@[simp] theorem fatalInTop_showFps (c : FaultCode) : (fatalInTop c s).showFps = s.showFps := rfl
@[simp] theorem fatalInTop_evIllegal (c : FaultCode) : (fatalInTop c s).evIllegal = s.evIllegal := rfl
@[simp] theorem fatalInTop_hostRefused (c : FaultCode) : (fatalInTop c s).hostRefused = s.hostRefused := rfl
@[simp] theorem fatalInTop_consFail (c : FaultCode) : (fatalInTop c s).consFail = s.consFail := rfl
@[simp] theorem fatalInTop_ctlStatus (c : FaultCode) : (fatalInTop c s).ctlStatus = s.ctlStatus := rfl
@[simp] theorem fatalInTop_snapStatus (c : FaultCode) : (fatalInTop c s).snapStatus = s.snapStatus := rfl
@[simp] theorem fatalInTop_cpu (c : FaultCode) : (fatalInTop c s).cpu = s.cpu := rfl
@[simp] theorem fatalInTop_ppu (c : FaultCode) : (fatalInTop c s).ppu = s.ppu := rfl
@[simp] theorem fatalInTop_mapper (c : FaultCode) : (fatalInTop c s).mapper = s.mapper := rfl
@[simp] theorem fatalInTop_dev (c : FaultCode) : (fatalInTop c s).dev = s.dev := rfl
@[simp] theorem fatalInTop_out (c : FaultCode) : (fatalInTop c s).out = s.out ++ [.fatal c] := rfl
@[simp] theorem fatalInTop_ctlRdata (c : FaultCode) : (fatalInTop c s).ctlRdata = s.ctlRdata := rfl
@[simp] theorem fatalInTop_busRdata (c : FaultCode) : (fatalInTop c s).busRdata = s.busRdata := rfl
@[simp] theorem fatalInTop_busReq (c : FaultCode) : (fatalInTop c s).busReq = s.busReq := rfl
@[simp] theorem fatalInTop_hostPort (c : FaultCode) : (fatalInTop c s).hostPort = s.hostPort := rfl
@[simp] theorem fatalInTop_turn (c : FaultCode) : (fatalInTop c s).turn = s.turn := rfl
@[simp] theorem fatalInTop_tick (c : FaultCode) : (fatalInTop c s).tick = s.tick := rfl
@[simp] theorem fatalInTop_plat (c : FaultCode) : (fatalInTop c s).plat = s.plat := rfl

/-! ## doReset -/

@[simp] theorem doReset_running : (doReset s).running = s.running := rfl
@[simp] theorem doReset_started : (doReset s).started = s.started := rfl
@[simp] theorem doReset_stepMode : (doReset s).stepMode = s.stepMode := rfl
@[simp] theorem doReset_quota : (doReset s).quota = 0 := rfl
@[simp] theorem doReset_region : (doReset s).region = s.region := rfl
@[simp] theorem doReset_hasSlc : (doReset s).hasSlc = s.hasSlc := rfl
@[simp] theorem doReset_paused : (doReset s).paused = false := rfl
@[simp] theorem doReset_sphase : (doReset s).sphase = s.sphase := rfl
@[simp] theorem doReset_pwaitRet : (doReset s).pwaitRet = s.pwaitRet := rfl
@[simp] theorem doReset_drainPending : (doReset s).drainPending = 0 := rfl
@[simp] theorem doReset_cpuCyc : (doReset s).cpuCyc = 0 := rfl
@[simp] theorem doReset_ppuCyc : (doReset s).ppuCyc = 0 := rfl
@[simp] theorem doReset_frameSeq : (doReset s).frameSeq = 0 := rfl
@[simp] theorem doReset_fault : (doReset s).fault = s.fault := rfl
@[simp] theorem doReset_nmiLatch : (doReset s).nmiLatch = false := rfl
@[simp] theorem doReset_nmiPrev : (doReset s).nmiPrev = false := rfl
@[simp] theorem doReset_mapCpu : (doReset s).mapCpu = s.mapCpu := rfl
@[simp] theorem doReset_mapPpu : (doReset s).mapPpu = s.mapPpu := rfl
@[simp] theorem doReset_openBusCpu : (doReset s).openBusCpu = s.openBusCpu := rfl
@[simp] theorem doReset_openBusPpu : (doReset s).openBusPpu = s.openBusPpu := rfl
@[simp] theorem doReset_ctrl0 : (doReset s).ctrl0 = 0 := rfl
@[simp] theorem doReset_ctrl1 : (doReset s).ctrl1 = 0 := rfl
@[simp] theorem doReset_evq : (doReset s).evq = s.evq := rfl
@[simp] theorem doReset_pq : (doReset s).pq = s.pq := rfl
@[simp] theorem doReset_cphase : (doReset s).cphase = s.cphase := rfl
@[simp] theorem doReset_curEv : (doReset s).curEv = s.curEv := rfl
@[simp] theorem doReset_ackValid : (doReset s).ackValid = s.ackValid := rfl
@[simp] theorem doReset_ackVal : (doReset s).ackVal = s.ackVal := rfl
@[simp] theorem doReset_showFps : (doReset s).showFps = s.showFps := rfl
@[simp] theorem doReset_evIllegal : (doReset s).evIllegal = s.evIllegal := rfl
@[simp] theorem doReset_hostRefused : (doReset s).hostRefused = s.hostRefused := rfl
@[simp] theorem doReset_consFail : (doReset s).consFail = s.consFail := rfl
@[simp] theorem doReset_ctlStatus : (doReset s).ctlStatus = s.ctlStatus := rfl
@[simp] theorem doReset_snapStatus : (doReset s).snapStatus = s.snapStatus := rfl
@[simp] theorem doReset_cpu : (doReset s).cpu = Config.cpuReset s.cpu := rfl
@[simp] theorem doReset_ppu : (doReset s).ppu = Config.ppuReset s.ppu := rfl
@[simp] theorem doReset_mapper : (doReset s).mapper = s.mapper := rfl
@[simp] theorem doReset_dev : (doReset s).dev = resetDevices s.plat s.cpu s.dev := rfl
@[simp] theorem doReset_out : (doReset s).out = s.out := rfl
@[simp] theorem doReset_ctlRdata : (doReset s).ctlRdata = s.ctlRdata := rfl
@[simp] theorem doReset_busRdata : (doReset s).busRdata = s.busRdata := rfl
@[simp] theorem doReset_busReq : (doReset s).busReq = s.busReq := rfl
@[simp] theorem doReset_hostPort : (doReset s).hostPort = s.hostPort := rfl
@[simp] theorem doReset_turn : (doReset s).turn = s.turn := rfl
@[simp] theorem doReset_tick : (doReset s).tick = s.tick := rfl
@[simp] theorem doReset_plat : (doReset s).plat = s.plat := rfl

/-! ## applyRecord -/

@[simp] theorem applyRecord_running (r : SnapRecord) : (applyRecord r s).running = s.running := rfl
@[simp] theorem applyRecord_started (r : SnapRecord) : (applyRecord r s).started = s.started := rfl
@[simp] theorem applyRecord_stepMode (r : SnapRecord) : (applyRecord r s).stepMode = r.stepMode := rfl
@[simp] theorem applyRecord_quota (r : SnapRecord) : (applyRecord r s).quota = r.quota := rfl
@[simp] theorem applyRecord_region (r : SnapRecord) : (applyRecord r s).region = s.region := rfl
@[simp] theorem applyRecord_hasSlc (r : SnapRecord) : (applyRecord r s).hasSlc = s.hasSlc := rfl
@[simp] theorem applyRecord_paused (r : SnapRecord) : (applyRecord r s).paused = s.paused := rfl
@[simp] theorem applyRecord_sphase (r : SnapRecord) : (applyRecord r s).sphase = s.sphase := rfl
@[simp] theorem applyRecord_pwaitRet (r : SnapRecord) : (applyRecord r s).pwaitRet = s.pwaitRet := rfl
@[simp] theorem applyRecord_drainPending (r : SnapRecord) : (applyRecord r s).drainPending = r.drainPending := rfl
@[simp] theorem applyRecord_cpuCyc (r : SnapRecord) : (applyRecord r s).cpuCyc = r.cpuCyc := rfl
@[simp] theorem applyRecord_ppuCyc (r : SnapRecord) : (applyRecord r s).ppuCyc = r.ppuCyc := rfl
@[simp] theorem applyRecord_frameSeq (r : SnapRecord) : (applyRecord r s).frameSeq = r.frameSeq := rfl
@[simp] theorem applyRecord_fault (r : SnapRecord) : (applyRecord r s).fault = s.fault := rfl
@[simp] theorem applyRecord_nmiLatch (r : SnapRecord) : (applyRecord r s).nmiLatch = r.nmiLatch := rfl
@[simp] theorem applyRecord_nmiPrev (r : SnapRecord) : (applyRecord r s).nmiPrev = r.nmiPrev := rfl
@[simp] theorem applyRecord_mapCpu (r : SnapRecord) : (applyRecord r s).mapCpu = s.mapCpu := rfl
@[simp] theorem applyRecord_mapPpu (r : SnapRecord) : (applyRecord r s).mapPpu = s.mapPpu := rfl
@[simp] theorem applyRecord_openBusCpu (r : SnapRecord) : (applyRecord r s).openBusCpu = r.openBusCpu := rfl
@[simp] theorem applyRecord_openBusPpu (r : SnapRecord) : (applyRecord r s).openBusPpu = r.openBusPpu := rfl
@[simp] theorem applyRecord_ctrl0 (r : SnapRecord) : (applyRecord r s).ctrl0 = r.ctrl0 := rfl
@[simp] theorem applyRecord_ctrl1 (r : SnapRecord) : (applyRecord r s).ctrl1 = r.ctrl1 := rfl
@[simp] theorem applyRecord_evq (r : SnapRecord) : (applyRecord r s).evq = s.evq := rfl
@[simp] theorem applyRecord_pq (r : SnapRecord) : (applyRecord r s).pq = s.pq := rfl
@[simp] theorem applyRecord_cphase (r : SnapRecord) : (applyRecord r s).cphase = s.cphase := rfl
@[simp] theorem applyRecord_curEv (r : SnapRecord) : (applyRecord r s).curEv = s.curEv := rfl
@[simp] theorem applyRecord_ackValid (r : SnapRecord) : (applyRecord r s).ackValid = s.ackValid := rfl
@[simp] theorem applyRecord_ackVal (r : SnapRecord) : (applyRecord r s).ackVal = s.ackVal := rfl
@[simp] theorem applyRecord_showFps (r : SnapRecord) : (applyRecord r s).showFps = s.showFps := rfl
@[simp] theorem applyRecord_evIllegal (r : SnapRecord) : (applyRecord r s).evIllegal = s.evIllegal := rfl
@[simp] theorem applyRecord_hostRefused (r : SnapRecord) : (applyRecord r s).hostRefused = s.hostRefused := rfl
@[simp] theorem applyRecord_consFail (r : SnapRecord) : (applyRecord r s).consFail = s.consFail := rfl
@[simp] theorem applyRecord_ctlStatus (r : SnapRecord) : (applyRecord r s).ctlStatus = s.ctlStatus := rfl
@[simp] theorem applyRecord_snapStatus (r : SnapRecord) : (applyRecord r s).snapStatus = s.snapStatus := rfl
@[simp] theorem applyRecord_cpu (r : SnapRecord) : (applyRecord r s).cpu = r.cpu := rfl
@[simp] theorem applyRecord_ppu (r : SnapRecord) : (applyRecord r s).ppu = r.ppu := rfl
@[simp] theorem applyRecord_mapper (r : SnapRecord) : (applyRecord r s).mapper = r.mapper := rfl
@[simp] theorem applyRecord_dev (r : SnapRecord) : (applyRecord r s).dev = devNorm r.dev := rfl
@[simp] theorem applyRecord_out (r : SnapRecord) : (applyRecord r s).out = s.out := rfl
@[simp] theorem applyRecord_ctlRdata (r : SnapRecord) : (applyRecord r s).ctlRdata = s.ctlRdata := rfl
@[simp] theorem applyRecord_busRdata (r : SnapRecord) : (applyRecord r s).busRdata = s.busRdata := rfl
@[simp] theorem applyRecord_busReq (r : SnapRecord) : (applyRecord r s).busReq = s.busReq := rfl
@[simp] theorem applyRecord_hostPort (r : SnapRecord) : (applyRecord r s).hostPort = s.hostPort := rfl
@[simp] theorem applyRecord_turn (r : SnapRecord) : (applyRecord r s).turn = s.turn := rfl
@[simp] theorem applyRecord_tick (r : SnapRecord) : (applyRecord r s).tick = s.tick := rfl
@[simp] theorem applyRecord_plat (r : SnapRecord) : (applyRecord r s).plat = s.plat := rfl

/-! ## setOpenBus -/

@[simp] theorem setOpenBus_running (sp : Space) (v : Byte) : (s.setOpenBus sp v).running = s.running := by cases sp <;> rfl
@[simp] theorem setOpenBus_started (sp : Space) (v : Byte) : (s.setOpenBus sp v).started = s.started := by cases sp <;> rfl
@[simp] theorem setOpenBus_stepMode (sp : Space) (v : Byte) : (s.setOpenBus sp v).stepMode = s.stepMode := by cases sp <;> rfl
@[simp] theorem setOpenBus_quota (sp : Space) (v : Byte) : (s.setOpenBus sp v).quota = s.quota := by cases sp <;> rfl
@[simp] theorem setOpenBus_region (sp : Space) (v : Byte) : (s.setOpenBus sp v).region = s.region := by cases sp <;> rfl
@[simp] theorem setOpenBus_hasSlc (sp : Space) (v : Byte) : (s.setOpenBus sp v).hasSlc = s.hasSlc := by cases sp <;> rfl
@[simp] theorem setOpenBus_paused (sp : Space) (v : Byte) : (s.setOpenBus sp v).paused = s.paused := by cases sp <;> rfl
@[simp] theorem setOpenBus_sphase (sp : Space) (v : Byte) : (s.setOpenBus sp v).sphase = s.sphase := by cases sp <;> rfl
@[simp] theorem setOpenBus_pwaitRet (sp : Space) (v : Byte) : (s.setOpenBus sp v).pwaitRet = s.pwaitRet := by cases sp <;> rfl
@[simp] theorem setOpenBus_drainPending (sp : Space) (v : Byte) : (s.setOpenBus sp v).drainPending = s.drainPending := by cases sp <;> rfl
@[simp] theorem setOpenBus_cpuCyc (sp : Space) (v : Byte) : (s.setOpenBus sp v).cpuCyc = s.cpuCyc := by cases sp <;> rfl
@[simp] theorem setOpenBus_ppuCyc (sp : Space) (v : Byte) : (s.setOpenBus sp v).ppuCyc = s.ppuCyc := by cases sp <;> rfl
@[simp] theorem setOpenBus_frameSeq (sp : Space) (v : Byte) : (s.setOpenBus sp v).frameSeq = s.frameSeq := by cases sp <;> rfl
@[simp] theorem setOpenBus_fault (sp : Space) (v : Byte) : (s.setOpenBus sp v).fault = s.fault := by cases sp <;> rfl
@[simp] theorem setOpenBus_nmiLatch (sp : Space) (v : Byte) : (s.setOpenBus sp v).nmiLatch = s.nmiLatch := by cases sp <;> rfl
@[simp] theorem setOpenBus_nmiPrev (sp : Space) (v : Byte) : (s.setOpenBus sp v).nmiPrev = s.nmiPrev := by cases sp <;> rfl
@[simp] theorem setOpenBus_mapCpu (sp : Space) (v : Byte) : (s.setOpenBus sp v).mapCpu = s.mapCpu := by cases sp <;> rfl
@[simp] theorem setOpenBus_mapPpu (sp : Space) (v : Byte) : (s.setOpenBus sp v).mapPpu = s.mapPpu := by cases sp <;> rfl
@[simp] theorem setOpenBus_openBusCpu (sp : Space) (v : Byte) : (s.setOpenBus sp v).openBusCpu = (if sp = .cpu then v else s.openBusCpu) := by cases sp <;> rfl
@[simp] theorem setOpenBus_openBusPpu (sp : Space) (v : Byte) : (s.setOpenBus sp v).openBusPpu = (if sp = .ppu then v else s.openBusPpu) := by cases sp <;> rfl
@[simp] theorem setOpenBus_ctrl0 (sp : Space) (v : Byte) : (s.setOpenBus sp v).ctrl0 = s.ctrl0 := by cases sp <;> rfl
@[simp] theorem setOpenBus_ctrl1 (sp : Space) (v : Byte) : (s.setOpenBus sp v).ctrl1 = s.ctrl1 := by cases sp <;> rfl
@[simp] theorem setOpenBus_evq (sp : Space) (v : Byte) : (s.setOpenBus sp v).evq = s.evq := by cases sp <;> rfl
@[simp] theorem setOpenBus_pq (sp : Space) (v : Byte) : (s.setOpenBus sp v).pq = s.pq := by cases sp <;> rfl
@[simp] theorem setOpenBus_cphase (sp : Space) (v : Byte) : (s.setOpenBus sp v).cphase = s.cphase := by cases sp <;> rfl
@[simp] theorem setOpenBus_curEv (sp : Space) (v : Byte) : (s.setOpenBus sp v).curEv = s.curEv := by cases sp <;> rfl
@[simp] theorem setOpenBus_ackValid (sp : Space) (v : Byte) : (s.setOpenBus sp v).ackValid = s.ackValid := by cases sp <;> rfl
@[simp] theorem setOpenBus_ackVal (sp : Space) (v : Byte) : (s.setOpenBus sp v).ackVal = s.ackVal := by cases sp <;> rfl
@[simp] theorem setOpenBus_showFps (sp : Space) (v : Byte) : (s.setOpenBus sp v).showFps = s.showFps := by cases sp <;> rfl
@[simp] theorem setOpenBus_evIllegal (sp : Space) (v : Byte) : (s.setOpenBus sp v).evIllegal = s.evIllegal := by cases sp <;> rfl
@[simp] theorem setOpenBus_hostRefused (sp : Space) (v : Byte) : (s.setOpenBus sp v).hostRefused = s.hostRefused := by cases sp <;> rfl
@[simp] theorem setOpenBus_consFail (sp : Space) (v : Byte) : (s.setOpenBus sp v).consFail = s.consFail := by cases sp <;> rfl
@[simp] theorem setOpenBus_ctlStatus (sp : Space) (v : Byte) : (s.setOpenBus sp v).ctlStatus = s.ctlStatus := by cases sp <;> rfl
@[simp] theorem setOpenBus_snapStatus (sp : Space) (v : Byte) : (s.setOpenBus sp v).snapStatus = s.snapStatus := by cases sp <;> rfl
@[simp] theorem setOpenBus_cpu (sp : Space) (v : Byte) : (s.setOpenBus sp v).cpu = s.cpu := by cases sp <;> rfl
@[simp] theorem setOpenBus_ppu (sp : Space) (v : Byte) : (s.setOpenBus sp v).ppu = s.ppu := by cases sp <;> rfl
@[simp] theorem setOpenBus_mapper (sp : Space) (v : Byte) : (s.setOpenBus sp v).mapper = s.mapper := by cases sp <;> rfl
@[simp] theorem setOpenBus_dev (sp : Space) (v : Byte) : (s.setOpenBus sp v).dev = s.dev := by cases sp <;> rfl
@[simp] theorem setOpenBus_out (sp : Space) (v : Byte) : (s.setOpenBus sp v).out = s.out := by cases sp <;> rfl
@[simp] theorem setOpenBus_ctlRdata (sp : Space) (v : Byte) : (s.setOpenBus sp v).ctlRdata = s.ctlRdata := by cases sp <;> rfl
@[simp] theorem setOpenBus_busRdata (sp : Space) (v : Byte) : (s.setOpenBus sp v).busRdata = s.busRdata := by cases sp <;> rfl
@[simp] theorem setOpenBus_busReq (sp : Space) (v : Byte) : (s.setOpenBus sp v).busReq = s.busReq := by cases sp <;> rfl
@[simp] theorem setOpenBus_hostPort (sp : Space) (v : Byte) : (s.setOpenBus sp v).hostPort = s.hostPort := by cases sp <;> rfl
@[simp] theorem setOpenBus_turn (sp : Space) (v : Byte) : (s.setOpenBus sp v).turn = s.turn := by cases sp <;> rfl
@[simp] theorem setOpenBus_tick (sp : Space) (v : Byte) : (s.setOpenBus sp v).tick = s.tick := by cases sp <;> rfl
@[simp] theorem setOpenBus_plat (sp : Space) (v : Byte) : (s.setOpenBus sp v).plat = s.plat := by cases sp <;> rfl

/-! ## setMap -/

@[simp] theorem setMap_running (sp : Space) (m : List MapEntry) : (s.setMap sp m).running = s.running := by cases sp <;> rfl
@[simp] theorem setMap_started (sp : Space) (m : List MapEntry) : (s.setMap sp m).started = s.started := by cases sp <;> rfl
@[simp] theorem setMap_stepMode (sp : Space) (m : List MapEntry) : (s.setMap sp m).stepMode = s.stepMode := by cases sp <;> rfl
@[simp] theorem setMap_quota (sp : Space) (m : List MapEntry) : (s.setMap sp m).quota = s.quota := by cases sp <;> rfl
@[simp] theorem setMap_region (sp : Space) (m : List MapEntry) : (s.setMap sp m).region = s.region := by cases sp <;> rfl
@[simp] theorem setMap_hasSlc (sp : Space) (m : List MapEntry) : (s.setMap sp m).hasSlc = s.hasSlc := by cases sp <;> rfl
@[simp] theorem setMap_paused (sp : Space) (m : List MapEntry) : (s.setMap sp m).paused = s.paused := by cases sp <;> rfl
@[simp] theorem setMap_sphase (sp : Space) (m : List MapEntry) : (s.setMap sp m).sphase = s.sphase := by cases sp <;> rfl
@[simp] theorem setMap_pwaitRet (sp : Space) (m : List MapEntry) : (s.setMap sp m).pwaitRet = s.pwaitRet := by cases sp <;> rfl
@[simp] theorem setMap_drainPending (sp : Space) (m : List MapEntry) : (s.setMap sp m).drainPending = s.drainPending := by cases sp <;> rfl
@[simp] theorem setMap_cpuCyc (sp : Space) (m : List MapEntry) : (s.setMap sp m).cpuCyc = s.cpuCyc := by cases sp <;> rfl
@[simp] theorem setMap_ppuCyc (sp : Space) (m : List MapEntry) : (s.setMap sp m).ppuCyc = s.ppuCyc := by cases sp <;> rfl
@[simp] theorem setMap_frameSeq (sp : Space) (m : List MapEntry) : (s.setMap sp m).frameSeq = s.frameSeq := by cases sp <;> rfl
@[simp] theorem setMap_fault (sp : Space) (m : List MapEntry) : (s.setMap sp m).fault = s.fault := by cases sp <;> rfl
@[simp] theorem setMap_nmiLatch (sp : Space) (m : List MapEntry) : (s.setMap sp m).nmiLatch = s.nmiLatch := by cases sp <;> rfl
@[simp] theorem setMap_nmiPrev (sp : Space) (m : List MapEntry) : (s.setMap sp m).nmiPrev = s.nmiPrev := by cases sp <;> rfl
@[simp] theorem setMap_mapCpu (sp : Space) (m : List MapEntry) : (s.setMap sp m).mapCpu = (if sp = .cpu then m else s.mapCpu) := by cases sp <;> rfl
@[simp] theorem setMap_mapPpu (sp : Space) (m : List MapEntry) : (s.setMap sp m).mapPpu = (if sp = .ppu then m else s.mapPpu) := by cases sp <;> rfl
@[simp] theorem setMap_openBusCpu (sp : Space) (m : List MapEntry) : (s.setMap sp m).openBusCpu = s.openBusCpu := by cases sp <;> rfl
@[simp] theorem setMap_openBusPpu (sp : Space) (m : List MapEntry) : (s.setMap sp m).openBusPpu = s.openBusPpu := by cases sp <;> rfl
@[simp] theorem setMap_ctrl0 (sp : Space) (m : List MapEntry) : (s.setMap sp m).ctrl0 = s.ctrl0 := by cases sp <;> rfl
@[simp] theorem setMap_ctrl1 (sp : Space) (m : List MapEntry) : (s.setMap sp m).ctrl1 = s.ctrl1 := by cases sp <;> rfl
@[simp] theorem setMap_evq (sp : Space) (m : List MapEntry) : (s.setMap sp m).evq = s.evq := by cases sp <;> rfl
@[simp] theorem setMap_pq (sp : Space) (m : List MapEntry) : (s.setMap sp m).pq = s.pq := by cases sp <;> rfl
@[simp] theorem setMap_cphase (sp : Space) (m : List MapEntry) : (s.setMap sp m).cphase = s.cphase := by cases sp <;> rfl
@[simp] theorem setMap_curEv (sp : Space) (m : List MapEntry) : (s.setMap sp m).curEv = s.curEv := by cases sp <;> rfl
@[simp] theorem setMap_ackValid (sp : Space) (m : List MapEntry) : (s.setMap sp m).ackValid = s.ackValid := by cases sp <;> rfl
@[simp] theorem setMap_ackVal (sp : Space) (m : List MapEntry) : (s.setMap sp m).ackVal = s.ackVal := by cases sp <;> rfl
@[simp] theorem setMap_showFps (sp : Space) (m : List MapEntry) : (s.setMap sp m).showFps = s.showFps := by cases sp <;> rfl
@[simp] theorem setMap_evIllegal (sp : Space) (m : List MapEntry) : (s.setMap sp m).evIllegal = s.evIllegal := by cases sp <;> rfl
@[simp] theorem setMap_hostRefused (sp : Space) (m : List MapEntry) : (s.setMap sp m).hostRefused = s.hostRefused := by cases sp <;> rfl
@[simp] theorem setMap_consFail (sp : Space) (m : List MapEntry) : (s.setMap sp m).consFail = s.consFail := by cases sp <;> rfl
@[simp] theorem setMap_ctlStatus (sp : Space) (m : List MapEntry) : (s.setMap sp m).ctlStatus = s.ctlStatus := by cases sp <;> rfl
@[simp] theorem setMap_snapStatus (sp : Space) (m : List MapEntry) : (s.setMap sp m).snapStatus = s.snapStatus := by cases sp <;> rfl
@[simp] theorem setMap_cpu (sp : Space) (m : List MapEntry) : (s.setMap sp m).cpu = s.cpu := by cases sp <;> rfl
@[simp] theorem setMap_ppu (sp : Space) (m : List MapEntry) : (s.setMap sp m).ppu = s.ppu := by cases sp <;> rfl
@[simp] theorem setMap_mapper (sp : Space) (m : List MapEntry) : (s.setMap sp m).mapper = s.mapper := by cases sp <;> rfl
@[simp] theorem setMap_dev (sp : Space) (m : List MapEntry) : (s.setMap sp m).dev = s.dev := by cases sp <;> rfl
@[simp] theorem setMap_out (sp : Space) (m : List MapEntry) : (s.setMap sp m).out = s.out := by cases sp <;> rfl
@[simp] theorem setMap_ctlRdata (sp : Space) (m : List MapEntry) : (s.setMap sp m).ctlRdata = s.ctlRdata := by cases sp <;> rfl
@[simp] theorem setMap_busRdata (sp : Space) (m : List MapEntry) : (s.setMap sp m).busRdata = s.busRdata := by cases sp <;> rfl
@[simp] theorem setMap_busReq (sp : Space) (m : List MapEntry) : (s.setMap sp m).busReq = s.busReq := by cases sp <;> rfl
@[simp] theorem setMap_hostPort (sp : Space) (m : List MapEntry) : (s.setMap sp m).hostPort = s.hostPort := by cases sp <;> rfl
@[simp] theorem setMap_turn (sp : Space) (m : List MapEntry) : (s.setMap sp m).turn = s.turn := by cases sp <;> rfl
@[simp] theorem setMap_tick (sp : Space) (m : List MapEntry) : (s.setMap sp m).tick = s.tick := by cases sp <;> rfl
@[simp] theorem setMap_plat (sp : Space) (m : List MapEntry) : (s.setMap sp m).plat = s.plat := by cases sp <;> rfl

/-! ## setCtrl -/

@[simp] theorem setCtrl_running (p : BitVec 1) (v : Byte) : (s.setCtrl p v).running = s.running := by unfold State.setCtrl; split <;> rfl
@[simp] theorem setCtrl_started (p : BitVec 1) (v : Byte) : (s.setCtrl p v).started = s.started := by unfold State.setCtrl; split <;> rfl
@[simp] theorem setCtrl_stepMode (p : BitVec 1) (v : Byte) : (s.setCtrl p v).stepMode = s.stepMode := by unfold State.setCtrl; split <;> rfl
@[simp] theorem setCtrl_quota (p : BitVec 1) (v : Byte) : (s.setCtrl p v).quota = s.quota := by unfold State.setCtrl; split <;> rfl
@[simp] theorem setCtrl_region (p : BitVec 1) (v : Byte) : (s.setCtrl p v).region = s.region := by unfold State.setCtrl; split <;> rfl
@[simp] theorem setCtrl_hasSlc (p : BitVec 1) (v : Byte) : (s.setCtrl p v).hasSlc = s.hasSlc := by unfold State.setCtrl; split <;> rfl
@[simp] theorem setCtrl_paused (p : BitVec 1) (v : Byte) : (s.setCtrl p v).paused = s.paused := by unfold State.setCtrl; split <;> rfl
@[simp] theorem setCtrl_sphase (p : BitVec 1) (v : Byte) : (s.setCtrl p v).sphase = s.sphase := by unfold State.setCtrl; split <;> rfl
@[simp] theorem setCtrl_pwaitRet (p : BitVec 1) (v : Byte) : (s.setCtrl p v).pwaitRet = s.pwaitRet := by unfold State.setCtrl; split <;> rfl
@[simp] theorem setCtrl_drainPending (p : BitVec 1) (v : Byte) : (s.setCtrl p v).drainPending = s.drainPending := by unfold State.setCtrl; split <;> rfl
@[simp] theorem setCtrl_cpuCyc (p : BitVec 1) (v : Byte) : (s.setCtrl p v).cpuCyc = s.cpuCyc := by unfold State.setCtrl; split <;> rfl
@[simp] theorem setCtrl_ppuCyc (p : BitVec 1) (v : Byte) : (s.setCtrl p v).ppuCyc = s.ppuCyc := by unfold State.setCtrl; split <;> rfl
@[simp] theorem setCtrl_frameSeq (p : BitVec 1) (v : Byte) : (s.setCtrl p v).frameSeq = s.frameSeq := by unfold State.setCtrl; split <;> rfl
@[simp] theorem setCtrl_fault (p : BitVec 1) (v : Byte) : (s.setCtrl p v).fault = s.fault := by unfold State.setCtrl; split <;> rfl
@[simp] theorem setCtrl_nmiLatch (p : BitVec 1) (v : Byte) : (s.setCtrl p v).nmiLatch = s.nmiLatch := by unfold State.setCtrl; split <;> rfl
@[simp] theorem setCtrl_nmiPrev (p : BitVec 1) (v : Byte) : (s.setCtrl p v).nmiPrev = s.nmiPrev := by unfold State.setCtrl; split <;> rfl
@[simp] theorem setCtrl_mapCpu (p : BitVec 1) (v : Byte) : (s.setCtrl p v).mapCpu = s.mapCpu := by unfold State.setCtrl; split <;> rfl
@[simp] theorem setCtrl_mapPpu (p : BitVec 1) (v : Byte) : (s.setCtrl p v).mapPpu = s.mapPpu := by unfold State.setCtrl; split <;> rfl
@[simp] theorem setCtrl_openBusCpu (p : BitVec 1) (v : Byte) : (s.setCtrl p v).openBusCpu = s.openBusCpu := by unfold State.setCtrl; split <;> rfl
@[simp] theorem setCtrl_openBusPpu (p : BitVec 1) (v : Byte) : (s.setCtrl p v).openBusPpu = s.openBusPpu := by unfold State.setCtrl; split <;> rfl
@[simp] theorem setCtrl_ctrl0 (p : BitVec 1) (v : Byte) : (s.setCtrl p v).ctrl0 = (if p = 0 then v else s.ctrl0) := by unfold State.setCtrl; split <;> rfl
@[simp] theorem setCtrl_ctrl1 (p : BitVec 1) (v : Byte) : (s.setCtrl p v).ctrl1 = (if p = 0 then s.ctrl1 else v) := by unfold State.setCtrl; split <;> rfl
@[simp] theorem setCtrl_evq (p : BitVec 1) (v : Byte) : (s.setCtrl p v).evq = s.evq := by unfold State.setCtrl; split <;> rfl
@[simp] theorem setCtrl_pq (p : BitVec 1) (v : Byte) : (s.setCtrl p v).pq = s.pq := by unfold State.setCtrl; split <;> rfl
@[simp] theorem setCtrl_cphase (p : BitVec 1) (v : Byte) : (s.setCtrl p v).cphase = s.cphase := by unfold State.setCtrl; split <;> rfl
@[simp] theorem setCtrl_curEv (p : BitVec 1) (v : Byte) : (s.setCtrl p v).curEv = s.curEv := by unfold State.setCtrl; split <;> rfl
@[simp] theorem setCtrl_ackValid (p : BitVec 1) (v : Byte) : (s.setCtrl p v).ackValid = s.ackValid := by unfold State.setCtrl; split <;> rfl
@[simp] theorem setCtrl_ackVal (p : BitVec 1) (v : Byte) : (s.setCtrl p v).ackVal = s.ackVal := by unfold State.setCtrl; split <;> rfl
@[simp] theorem setCtrl_showFps (p : BitVec 1) (v : Byte) : (s.setCtrl p v).showFps = s.showFps := by unfold State.setCtrl; split <;> rfl
@[simp] theorem setCtrl_evIllegal (p : BitVec 1) (v : Byte) : (s.setCtrl p v).evIllegal = s.evIllegal := by unfold State.setCtrl; split <;> rfl
@[simp] theorem setCtrl_hostRefused (p : BitVec 1) (v : Byte) : (s.setCtrl p v).hostRefused = s.hostRefused := by unfold State.setCtrl; split <;> rfl
@[simp] theorem setCtrl_consFail (p : BitVec 1) (v : Byte) : (s.setCtrl p v).consFail = s.consFail := by unfold State.setCtrl; split <;> rfl
@[simp] theorem setCtrl_ctlStatus (p : BitVec 1) (v : Byte) : (s.setCtrl p v).ctlStatus = s.ctlStatus := by unfold State.setCtrl; split <;> rfl
@[simp] theorem setCtrl_snapStatus (p : BitVec 1) (v : Byte) : (s.setCtrl p v).snapStatus = s.snapStatus := by unfold State.setCtrl; split <;> rfl
@[simp] theorem setCtrl_cpu (p : BitVec 1) (v : Byte) : (s.setCtrl p v).cpu = s.cpu := by unfold State.setCtrl; split <;> rfl
@[simp] theorem setCtrl_ppu (p : BitVec 1) (v : Byte) : (s.setCtrl p v).ppu = s.ppu := by unfold State.setCtrl; split <;> rfl
@[simp] theorem setCtrl_mapper (p : BitVec 1) (v : Byte) : (s.setCtrl p v).mapper = s.mapper := by unfold State.setCtrl; split <;> rfl
@[simp] theorem setCtrl_dev (p : BitVec 1) (v : Byte) : (s.setCtrl p v).dev = s.dev := by unfold State.setCtrl; split <;> rfl
@[simp] theorem setCtrl_out (p : BitVec 1) (v : Byte) : (s.setCtrl p v).out = s.out := by unfold State.setCtrl; split <;> rfl
@[simp] theorem setCtrl_ctlRdata (p : BitVec 1) (v : Byte) : (s.setCtrl p v).ctlRdata = s.ctlRdata := by unfold State.setCtrl; split <;> rfl
@[simp] theorem setCtrl_busRdata (p : BitVec 1) (v : Byte) : (s.setCtrl p v).busRdata = s.busRdata := by unfold State.setCtrl; split <;> rfl
@[simp] theorem setCtrl_busReq (p : BitVec 1) (v : Byte) : (s.setCtrl p v).busReq = s.busReq := by unfold State.setCtrl; split <;> rfl
@[simp] theorem setCtrl_hostPort (p : BitVec 1) (v : Byte) : (s.setCtrl p v).hostPort = s.hostPort := by unfold State.setCtrl; split <;> rfl
@[simp] theorem setCtrl_turn (p : BitVec 1) (v : Byte) : (s.setCtrl p v).turn = s.turn := by unfold State.setCtrl; split <;> rfl
@[simp] theorem setCtrl_tick (p : BitVec 1) (v : Byte) : (s.setCtrl p v).tick = s.tick := by unfold State.setCtrl; split <;> rfl
@[simp] theorem setCtrl_plat (p : BitVec 1) (v : Byte) : (s.setCtrl p v).plat = s.plat := by unfold State.setCtrl; split <;> rfl

end Sys2Proof.Machine
end

