-- ==== Sys2Proof/Laws/Bus.lean ====
section
/-!
SUPPORT. What a bus transaction and a primitive call can do: they change the device side of the state and the open-bus latch
of their own space, and nothing else.
-/
namespace Sys2Proof.Machine

/-- `t` is `s` but for the device side: PPU state, mapper state, device states, open-bus latches. -/
def BusOnly (s t : State) : Prop :=
  t = { s with ppu := t.ppu, mapper := t.mapper, dev := t.dev, openBusCpu := t.openBusCpu, openBusPpu := t.openBusPpu }

theorem BusOnly.refl (s : State) : BusOnly s s := rfl

/-- The state after, with the five fields it may have changed given names. -/
theorem BusOnly.fields {s t : State} (h : BusOnly s t) :
    ∃ ppu mapper dev cpuBus ppuBus, t = { s with
      ppu := ppu, mapper := mapper, dev := dev, openBusCpu := cpuBus, openBusPpu := ppuBus } :=
  ⟨_, _, _, _, _, h⟩

theorem BusOnly.trans {s t u : State} (h : BusOnly s t) (k : BusOnly t u) : BusOnly s u := by
  unfold BusOnly at *
  rw [k, h]

theorem devRead_busOnly (d : Byte) (sp : Space) (addr : Addr) (s : State) : BusOnly s (devRead d sp addr s).2 := by
  unfold devRead
  split <;> rfl

theorem devWrite_busOnly (d : Byte) (sp : Space) (addr : Addr) (v : Byte) (s : State) :
    BusOnly s (devWrite d sp addr v s) := by
  unfold devWrite
  split <;> rfl

theorem setOpenBus_busOnly (s : State) (sp : Space) (v : Byte) : BusOnly s (s.setOpenBus sp v) := by
  cases sp <;> rfl

theorem memRead_busOnly (sp : Space) (addr : Addr) (s : State) : BusOnly s (memRead sp addr s).2 := by
  unfold memRead
  split
  · exact (devRead_busOnly _ _ _ _).trans (setOpenBus_busOnly _ _ _)
  · rfl

theorem memWrite_busOnly (sp : Space) (addr : Addr) (v : Byte) (s : State) : BusOnly s (memWrite sp addr v s) := by
  unfold memWrite
  split
  · exact (devWrite_busOnly _ _ _ _ _).trans (setOpenBus_busOnly _ _ _)
  · exact setOpenBus_busOnly _ _ _

/-- A primitive call changes the device side alone (40_bus R136, 60_exceptions R318). -/
theorem runBus_busOnly {α : Type} (sp : Space) (p : BusProg α) (s : State) : BusOnly s (runBus sp p s).2 := by
  induction p generalizing s with
  | done a => rfl
  | read addr k ih => exact (memRead_busOnly sp addr s).trans (ih _ _)
  | write addr v k ih => exact (memWrite_busOnly sp addr v s).trans (ih _)

/-! ## The device store stays canonical -/

theorem devRead_wf (d : Byte) (sp : Space) (addr : Addr) (s : State) (h : devWf s.dev = true) :
    devWf (devRead d sp addr s).2.dev = true := by
  unfold devRead
  split <;> first | exact h | exact devSet_wf _ _ _ h

theorem devWrite_wf (d : Byte) (sp : Space) (addr : Addr) (v : Byte) (s : State) (h : devWf s.dev = true) :
    devWf (devWrite d sp addr v s).dev = true := by
  unfold devWrite
  split <;> first | exact h | exact devSet_wf _ _ _ h

theorem memRead_wf (sp : Space) (addr : Addr) (s : State) (h : devWf s.dev = true) :
    devWf (memRead sp addr s).2.dev = true := by
  unfold memRead
  split
  · simpa using devRead_wf _ _ _ _ h
  · exact h

theorem memWrite_wf (sp : Space) (addr : Addr) (v : Byte) (s : State) (h : devWf s.dev = true) :
    devWf (memWrite sp addr v s).dev = true := by
  unfold memWrite
  split
  · simpa using devWrite_wf _ _ _ _ _ h
  · simpa using h

/-- Every transaction of a primitive call keeps the device store canonical. -/
theorem runBus_wf {α : Type} (sp : Space) (p : BusProg α) (s : State) (h : devWf s.dev = true) :
    devWf (runBus sp p s).2.dev = true := by
  induction p generalizing s with
  | done a => exact h
  | read addr k ih => exact ih _ _ (memRead_wf sp addr s h)
  | write addr v k ih => exact ih _ (memWrite_wf sp addr v s h)

/-! ## What a reset does to the device store (10_state R53) -/

theorem resetDevice_wf (p : Platform) (cpu : CpuState) (dev : DevStore) (x : Byte × DevKind) (acc : DevStore)
    (h : devWf acc = true) : devWf (resetDevice p cpu dev x acc) = true := by
  unfold resetDevice
  split
  · exact devSet_wf _ _ _ h
  · exact h

theorem foldr_resetDevice_wf (p : Platform) (cpu : CpuState) (dev : DevStore) (l : List (Byte × DevKind))
    (h : devWf dev = true) : devWf (l.foldr (resetDevice p cpu dev) dev) = true := by
  induction l with
  | nil => exact h
  | cons x rest ih => exact resetDevice_wf p cpu dev x _ ih

/-- A reset keeps the device store canonical. -/
theorem resetDevices_wf (p : Platform) (cpu : CpuState) (dev : DevStore) (h : devWf dev = true) :
    devWf (resetDevices p cpu dev) = true := foldr_resetDevice_wf p cpu dev p.devices h

theorem devGet_resetDevice_other (p : Platform) (cpu : CpuState) (dev : DevStore) (x : Byte × DevKind) (acc : DevStore)
    (k : Nat) (h : x.1.toNat = k → p.kindOf x.1 ≠ .cpuOwned) : devGet (resetDevice p cpu dev x acc) k = devGet acc k := by
  unfold resetDevice
  split
  · rename_i hx
    exact devGet_devSet_other _ _ _ _ fun hk => h hk.symm hx
  · rfl

/-- A reset changes no device but the CPU's own. -/
theorem devGet_resetDevices_other (p : Platform) (cpu : CpuState) (dev : DevStore) (k : Nat)
    (h : ∀ d : Byte, d.toNat = k → p.kindOf d ≠ .cpuOwned) : devGet (resetDevices p cpu dev) k = devGet dev k := by
  unfold resetDevices
  induction p.devices with
  | nil => rfl
  | cons x rest ih => exact (devGet_resetDevice_other p cpu dev x _ k (h x.1)).trans ih

/-- A device the platform knows as the CPU's own is one of its devices. -/
theorem mem_of_kindOf_cpuOwned {p : Platform} {d : Byte} (h : p.kindOf d = .cpuOwned) : ∃ x ∈ p.devices, x.1 = d := by
  unfold Platform.kindOf at h
  cases hf : p.devices.find? fun x => x.1 == d with
  | none => simp [hf] at h
  | some x => exact ⟨x, List.mem_of_find?_eq_some hf, by simpa using List.find?_some hf⟩

/-- A reset gives each of the CPU's own devices the state `CpuReset` makes of the one it had. -/
theorem devGet_resetDevices_own (p : Platform) (cpu : CpuState) (dev : DevStore) (d : Byte) (hwf : devWf dev = true)
    (h : p.kindOf d = .cpuOwned) :
    devGet (resetDevices p cpu dev) d.toNat = Config.cpuResetDev d cpu (devGet dev d.toNat) := by
  obtain ⟨x, hx, rfl⟩ := mem_of_kindOf_cpuOwned h
  unfold resetDevices
  generalize p.devices = l at hx
  induction l with
  | nil => cases hx
  | cons y rest ih =>
    by_cases hy : y.1 = x.1
    · simp only [List.foldr_cons, resetDevice, hy, h, if_true]
      exact devGet_devSet_same _ _ _ (foldr_resetDevice_wf p cpu dev rest hwf)
    · have hr : x ∈ rest := (List.mem_cons.1 hx).resolve_left fun e => hy (by rw [e])
      exact (devGet_resetDevice_other p cpu dev y _ _ fun e => absurd (BitVec.eq_of_toNat_eq e) hy).trans (ih hr)

/-! ## A transaction touches the open-bus latch of its own space alone -/

theorem devRead_openBus (d : Byte) (sp : Space) (addr : Addr) (s : State) (q : Space) :
    (devRead d sp addr s).2.openBus q = s.openBus q := by
  unfold devRead
  cases q <;> split <;> rfl

theorem devWrite_openBus (d : Byte) (sp : Space) (addr : Addr) (v : Byte) (s : State) (q : Space) :
    (devWrite d sp addr v s).openBus q = s.openBus q := by
  unfold devWrite
  cases q <;> split <;> rfl

theorem setOpenBus_openBus (s : State) (sp q : Space) (v : Byte) :
    (s.setOpenBus sp v).openBus q = if q = sp then v else s.openBus q := by
  cases sp <;> cases q <;> rfl

theorem memRead_openBus_other (sp q : Space) (addr : Addr) (s : State) (h : q ≠ sp) :
    (memRead sp addr s).2.openBus q = s.openBus q := by
  unfold memRead
  split
  · simp [setOpenBus_openBus, h, devRead_openBus]
  · rfl

theorem memWrite_openBus_other (sp q : Space) (addr : Addr) (v : Byte) (s : State) (h : q ≠ sp) :
    (memWrite sp addr v s).openBus q = s.openBus q := by
  unfold memWrite
  split <;> simp [setOpenBus_openBus, h, devWrite_openBus]

/-- A primitive call leaves the other space's latch alone (40_bus R131). -/
theorem runBus_openBus_other {α : Type} (sp q : Space) (p : BusProg α) (s : State) (h : q ≠ sp) :
    (runBus sp p s).2.openBus q = s.openBus q := by
  induction p generalizing s with
  | done a => rfl
  | read addr k ih => exact (ih _ _).trans (memRead_openBus_other sp q addr s h)
  | write addr v k ih => exact (ih _).trans (memWrite_openBus_other sp q addr v s h)

/-! ## Field by field -/

theorem BusOnly.running {s t : State} (h : BusOnly s t) : t.running = s.running := by rw [h]
theorem BusOnly.started {s t : State} (h : BusOnly s t) : t.started = s.started := by rw [h]
theorem BusOnly.stepMode {s t : State} (h : BusOnly s t) : t.stepMode = s.stepMode := by rw [h]
theorem BusOnly.quota {s t : State} (h : BusOnly s t) : t.quota = s.quota := by rw [h]
theorem BusOnly.region {s t : State} (h : BusOnly s t) : t.region = s.region := by rw [h]
theorem BusOnly.hasSlc {s t : State} (h : BusOnly s t) : t.hasSlc = s.hasSlc := by rw [h]
theorem BusOnly.paused {s t : State} (h : BusOnly s t) : t.paused = s.paused := by rw [h]
theorem BusOnly.sphase {s t : State} (h : BusOnly s t) : t.sphase = s.sphase := by rw [h]
theorem BusOnly.pwaitRet {s t : State} (h : BusOnly s t) : t.pwaitRet = s.pwaitRet := by rw [h]
theorem BusOnly.drainPending {s t : State} (h : BusOnly s t) : t.drainPending = s.drainPending := by rw [h]
theorem BusOnly.cpuCyc {s t : State} (h : BusOnly s t) : t.cpuCyc = s.cpuCyc := by rw [h]
theorem BusOnly.ppuCyc {s t : State} (h : BusOnly s t) : t.ppuCyc = s.ppuCyc := by rw [h]
theorem BusOnly.frameSeq {s t : State} (h : BusOnly s t) : t.frameSeq = s.frameSeq := by rw [h]
theorem BusOnly.fault {s t : State} (h : BusOnly s t) : t.fault = s.fault := by rw [h]
theorem BusOnly.nmiLatch {s t : State} (h : BusOnly s t) : t.nmiLatch = s.nmiLatch := by rw [h]
theorem BusOnly.nmiPrev {s t : State} (h : BusOnly s t) : t.nmiPrev = s.nmiPrev := by rw [h]
theorem BusOnly.mapCpu {s t : State} (h : BusOnly s t) : t.mapCpu = s.mapCpu := by rw [h]
theorem BusOnly.mapPpu {s t : State} (h : BusOnly s t) : t.mapPpu = s.mapPpu := by rw [h]
theorem BusOnly.ctrl0 {s t : State} (h : BusOnly s t) : t.ctrl0 = s.ctrl0 := by rw [h]
theorem BusOnly.ctrl1 {s t : State} (h : BusOnly s t) : t.ctrl1 = s.ctrl1 := by rw [h]
theorem BusOnly.evq {s t : State} (h : BusOnly s t) : t.evq = s.evq := by rw [h]
theorem BusOnly.pq {s t : State} (h : BusOnly s t) : t.pq = s.pq := by rw [h]
theorem BusOnly.cphase {s t : State} (h : BusOnly s t) : t.cphase = s.cphase := by rw [h]
theorem BusOnly.curEv {s t : State} (h : BusOnly s t) : t.curEv = s.curEv := by rw [h]
theorem BusOnly.ackValid {s t : State} (h : BusOnly s t) : t.ackValid = s.ackValid := by rw [h]
theorem BusOnly.ackVal {s t : State} (h : BusOnly s t) : t.ackVal = s.ackVal := by rw [h]
theorem BusOnly.showFps {s t : State} (h : BusOnly s t) : t.showFps = s.showFps := by rw [h]
theorem BusOnly.evIllegal {s t : State} (h : BusOnly s t) : t.evIllegal = s.evIllegal := by rw [h]
theorem BusOnly.hostRefused {s t : State} (h : BusOnly s t) : t.hostRefused = s.hostRefused := by rw [h]
theorem BusOnly.consFail {s t : State} (h : BusOnly s t) : t.consFail = s.consFail := by rw [h]
theorem BusOnly.ctlStatus {s t : State} (h : BusOnly s t) : t.ctlStatus = s.ctlStatus := by rw [h]
theorem BusOnly.snapStatus {s t : State} (h : BusOnly s t) : t.snapStatus = s.snapStatus := by rw [h]
theorem BusOnly.cpu {s t : State} (h : BusOnly s t) : t.cpu = s.cpu := by rw [h]
theorem BusOnly.out {s t : State} (h : BusOnly s t) : t.out = s.out := by rw [h]
theorem BusOnly.ctlRdata {s t : State} (h : BusOnly s t) : t.ctlRdata = s.ctlRdata := by rw [h]
theorem BusOnly.busRdata {s t : State} (h : BusOnly s t) : t.busRdata = s.busRdata := by rw [h]
theorem BusOnly.busReq {s t : State} (h : BusOnly s t) : t.busReq = s.busReq := by rw [h]
theorem BusOnly.hostPort {s t : State} (h : BusOnly s t) : t.hostPort = s.hostPort := by rw [h]
theorem BusOnly.turn {s t : State} (h : BusOnly s t) : t.turn = s.turn := by rw [h]
theorem BusOnly.tick {s t : State} (h : BusOnly s t) : t.tick = s.tick := by rw [h]
theorem BusOnly.plat {s t : State} (h : BusOnly s t) : t.plat = s.plat := by rw [h]

/-! memRead -/

@[simp] theorem memRead_running (sp : Space) (addr : Addr) (s : State) : (memRead sp addr s).2.running = s.running := (memRead_busOnly sp addr s).running
@[simp] theorem memRead_started (sp : Space) (addr : Addr) (s : State) : (memRead sp addr s).2.started = s.started := (memRead_busOnly sp addr s).started
@[simp] theorem memRead_stepMode (sp : Space) (addr : Addr) (s : State) : (memRead sp addr s).2.stepMode = s.stepMode := (memRead_busOnly sp addr s).stepMode
@[simp] theorem memRead_quota (sp : Space) (addr : Addr) (s : State) : (memRead sp addr s).2.quota = s.quota := (memRead_busOnly sp addr s).quota
@[simp] theorem memRead_region (sp : Space) (addr : Addr) (s : State) : (memRead sp addr s).2.region = s.region := (memRead_busOnly sp addr s).region
@[simp] theorem memRead_hasSlc (sp : Space) (addr : Addr) (s : State) : (memRead sp addr s).2.hasSlc = s.hasSlc := (memRead_busOnly sp addr s).hasSlc
@[simp] theorem memRead_paused (sp : Space) (addr : Addr) (s : State) : (memRead sp addr s).2.paused = s.paused := (memRead_busOnly sp addr s).paused
@[simp] theorem memRead_sphase (sp : Space) (addr : Addr) (s : State) : (memRead sp addr s).2.sphase = s.sphase := (memRead_busOnly sp addr s).sphase
@[simp] theorem memRead_pwaitRet (sp : Space) (addr : Addr) (s : State) : (memRead sp addr s).2.pwaitRet = s.pwaitRet := (memRead_busOnly sp addr s).pwaitRet
@[simp] theorem memRead_drainPending (sp : Space) (addr : Addr) (s : State) : (memRead sp addr s).2.drainPending = s.drainPending := (memRead_busOnly sp addr s).drainPending
@[simp] theorem memRead_cpuCyc (sp : Space) (addr : Addr) (s : State) : (memRead sp addr s).2.cpuCyc = s.cpuCyc := (memRead_busOnly sp addr s).cpuCyc
@[simp] theorem memRead_ppuCyc (sp : Space) (addr : Addr) (s : State) : (memRead sp addr s).2.ppuCyc = s.ppuCyc := (memRead_busOnly sp addr s).ppuCyc
@[simp] theorem memRead_frameSeq (sp : Space) (addr : Addr) (s : State) : (memRead sp addr s).2.frameSeq = s.frameSeq := (memRead_busOnly sp addr s).frameSeq
@[simp] theorem memRead_fault (sp : Space) (addr : Addr) (s : State) : (memRead sp addr s).2.fault = s.fault := (memRead_busOnly sp addr s).fault
@[simp] theorem memRead_nmiLatch (sp : Space) (addr : Addr) (s : State) : (memRead sp addr s).2.nmiLatch = s.nmiLatch := (memRead_busOnly sp addr s).nmiLatch
@[simp] theorem memRead_nmiPrev (sp : Space) (addr : Addr) (s : State) : (memRead sp addr s).2.nmiPrev = s.nmiPrev := (memRead_busOnly sp addr s).nmiPrev
@[simp] theorem memRead_mapCpu (sp : Space) (addr : Addr) (s : State) : (memRead sp addr s).2.mapCpu = s.mapCpu := (memRead_busOnly sp addr s).mapCpu
@[simp] theorem memRead_mapPpu (sp : Space) (addr : Addr) (s : State) : (memRead sp addr s).2.mapPpu = s.mapPpu := (memRead_busOnly sp addr s).mapPpu
@[simp] theorem memRead_ctrl0 (sp : Space) (addr : Addr) (s : State) : (memRead sp addr s).2.ctrl0 = s.ctrl0 := (memRead_busOnly sp addr s).ctrl0
@[simp] theorem memRead_ctrl1 (sp : Space) (addr : Addr) (s : State) : (memRead sp addr s).2.ctrl1 = s.ctrl1 := (memRead_busOnly sp addr s).ctrl1
@[simp] theorem memRead_evq (sp : Space) (addr : Addr) (s : State) : (memRead sp addr s).2.evq = s.evq := (memRead_busOnly sp addr s).evq
@[simp] theorem memRead_pq (sp : Space) (addr : Addr) (s : State) : (memRead sp addr s).2.pq = s.pq := (memRead_busOnly sp addr s).pq
@[simp] theorem memRead_cphase (sp : Space) (addr : Addr) (s : State) : (memRead sp addr s).2.cphase = s.cphase := (memRead_busOnly sp addr s).cphase
@[simp] theorem memRead_curEv (sp : Space) (addr : Addr) (s : State) : (memRead sp addr s).2.curEv = s.curEv := (memRead_busOnly sp addr s).curEv
@[simp] theorem memRead_ackValid (sp : Space) (addr : Addr) (s : State) : (memRead sp addr s).2.ackValid = s.ackValid := (memRead_busOnly sp addr s).ackValid
@[simp] theorem memRead_ackVal (sp : Space) (addr : Addr) (s : State) : (memRead sp addr s).2.ackVal = s.ackVal := (memRead_busOnly sp addr s).ackVal
@[simp] theorem memRead_showFps (sp : Space) (addr : Addr) (s : State) : (memRead sp addr s).2.showFps = s.showFps := (memRead_busOnly sp addr s).showFps
@[simp] theorem memRead_evIllegal (sp : Space) (addr : Addr) (s : State) : (memRead sp addr s).2.evIllegal = s.evIllegal := (memRead_busOnly sp addr s).evIllegal
@[simp] theorem memRead_hostRefused (sp : Space) (addr : Addr) (s : State) : (memRead sp addr s).2.hostRefused = s.hostRefused := (memRead_busOnly sp addr s).hostRefused
@[simp] theorem memRead_consFail (sp : Space) (addr : Addr) (s : State) : (memRead sp addr s).2.consFail = s.consFail := (memRead_busOnly sp addr s).consFail
@[simp] theorem memRead_ctlStatus (sp : Space) (addr : Addr) (s : State) : (memRead sp addr s).2.ctlStatus = s.ctlStatus := (memRead_busOnly sp addr s).ctlStatus
@[simp] theorem memRead_snapStatus (sp : Space) (addr : Addr) (s : State) : (memRead sp addr s).2.snapStatus = s.snapStatus := (memRead_busOnly sp addr s).snapStatus
@[simp] theorem memRead_cpu (sp : Space) (addr : Addr) (s : State) : (memRead sp addr s).2.cpu = s.cpu := (memRead_busOnly sp addr s).cpu
@[simp] theorem memRead_out (sp : Space) (addr : Addr) (s : State) : (memRead sp addr s).2.out = s.out := (memRead_busOnly sp addr s).out
@[simp] theorem memRead_ctlRdata (sp : Space) (addr : Addr) (s : State) : (memRead sp addr s).2.ctlRdata = s.ctlRdata := (memRead_busOnly sp addr s).ctlRdata
@[simp] theorem memRead_busRdata (sp : Space) (addr : Addr) (s : State) : (memRead sp addr s).2.busRdata = s.busRdata := (memRead_busOnly sp addr s).busRdata
@[simp] theorem memRead_busReq (sp : Space) (addr : Addr) (s : State) : (memRead sp addr s).2.busReq = s.busReq := (memRead_busOnly sp addr s).busReq
@[simp] theorem memRead_hostPort (sp : Space) (addr : Addr) (s : State) : (memRead sp addr s).2.hostPort = s.hostPort := (memRead_busOnly sp addr s).hostPort
@[simp] theorem memRead_turn (sp : Space) (addr : Addr) (s : State) : (memRead sp addr s).2.turn = s.turn := (memRead_busOnly sp addr s).turn
@[simp] theorem memRead_tick (sp : Space) (addr : Addr) (s : State) : (memRead sp addr s).2.tick = s.tick := (memRead_busOnly sp addr s).tick
@[simp] theorem memRead_plat (sp : Space) (addr : Addr) (s : State) : (memRead sp addr s).2.plat = s.plat := (memRead_busOnly sp addr s).plat

/-! memWrite -/

@[simp] theorem memWrite_running (sp : Space) (addr : Addr) (v : Byte) (s : State) : (memWrite sp addr v s).running = s.running := (memWrite_busOnly sp addr v s).running
@[simp] theorem memWrite_started (sp : Space) (addr : Addr) (v : Byte) (s : State) : (memWrite sp addr v s).started = s.started := (memWrite_busOnly sp addr v s).started
@[simp] theorem memWrite_stepMode (sp : Space) (addr : Addr) (v : Byte) (s : State) : (memWrite sp addr v s).stepMode = s.stepMode := (memWrite_busOnly sp addr v s).stepMode
@[simp] theorem memWrite_quota (sp : Space) (addr : Addr) (v : Byte) (s : State) : (memWrite sp addr v s).quota = s.quota := (memWrite_busOnly sp addr v s).quota
@[simp] theorem memWrite_region (sp : Space) (addr : Addr) (v : Byte) (s : State) : (memWrite sp addr v s).region = s.region := (memWrite_busOnly sp addr v s).region
@[simp] theorem memWrite_hasSlc (sp : Space) (addr : Addr) (v : Byte) (s : State) : (memWrite sp addr v s).hasSlc = s.hasSlc := (memWrite_busOnly sp addr v s).hasSlc
@[simp] theorem memWrite_paused (sp : Space) (addr : Addr) (v : Byte) (s : State) : (memWrite sp addr v s).paused = s.paused := (memWrite_busOnly sp addr v s).paused
@[simp] theorem memWrite_sphase (sp : Space) (addr : Addr) (v : Byte) (s : State) : (memWrite sp addr v s).sphase = s.sphase := (memWrite_busOnly sp addr v s).sphase
@[simp] theorem memWrite_pwaitRet (sp : Space) (addr : Addr) (v : Byte) (s : State) : (memWrite sp addr v s).pwaitRet = s.pwaitRet := (memWrite_busOnly sp addr v s).pwaitRet
@[simp] theorem memWrite_drainPending (sp : Space) (addr : Addr) (v : Byte) (s : State) : (memWrite sp addr v s).drainPending = s.drainPending := (memWrite_busOnly sp addr v s).drainPending
@[simp] theorem memWrite_cpuCyc (sp : Space) (addr : Addr) (v : Byte) (s : State) : (memWrite sp addr v s).cpuCyc = s.cpuCyc := (memWrite_busOnly sp addr v s).cpuCyc
@[simp] theorem memWrite_ppuCyc (sp : Space) (addr : Addr) (v : Byte) (s : State) : (memWrite sp addr v s).ppuCyc = s.ppuCyc := (memWrite_busOnly sp addr v s).ppuCyc
@[simp] theorem memWrite_frameSeq (sp : Space) (addr : Addr) (v : Byte) (s : State) : (memWrite sp addr v s).frameSeq = s.frameSeq := (memWrite_busOnly sp addr v s).frameSeq
@[simp] theorem memWrite_fault (sp : Space) (addr : Addr) (v : Byte) (s : State) : (memWrite sp addr v s).fault = s.fault := (memWrite_busOnly sp addr v s).fault
@[simp] theorem memWrite_nmiLatch (sp : Space) (addr : Addr) (v : Byte) (s : State) : (memWrite sp addr v s).nmiLatch = s.nmiLatch := (memWrite_busOnly sp addr v s).nmiLatch
@[simp] theorem memWrite_nmiPrev (sp : Space) (addr : Addr) (v : Byte) (s : State) : (memWrite sp addr v s).nmiPrev = s.nmiPrev := (memWrite_busOnly sp addr v s).nmiPrev
@[simp] theorem memWrite_mapCpu (sp : Space) (addr : Addr) (v : Byte) (s : State) : (memWrite sp addr v s).mapCpu = s.mapCpu := (memWrite_busOnly sp addr v s).mapCpu
@[simp] theorem memWrite_mapPpu (sp : Space) (addr : Addr) (v : Byte) (s : State) : (memWrite sp addr v s).mapPpu = s.mapPpu := (memWrite_busOnly sp addr v s).mapPpu
@[simp] theorem memWrite_ctrl0 (sp : Space) (addr : Addr) (v : Byte) (s : State) : (memWrite sp addr v s).ctrl0 = s.ctrl0 := (memWrite_busOnly sp addr v s).ctrl0
@[simp] theorem memWrite_ctrl1 (sp : Space) (addr : Addr) (v : Byte) (s : State) : (memWrite sp addr v s).ctrl1 = s.ctrl1 := (memWrite_busOnly sp addr v s).ctrl1
@[simp] theorem memWrite_evq (sp : Space) (addr : Addr) (v : Byte) (s : State) : (memWrite sp addr v s).evq = s.evq := (memWrite_busOnly sp addr v s).evq
@[simp] theorem memWrite_pq (sp : Space) (addr : Addr) (v : Byte) (s : State) : (memWrite sp addr v s).pq = s.pq := (memWrite_busOnly sp addr v s).pq
@[simp] theorem memWrite_cphase (sp : Space) (addr : Addr) (v : Byte) (s : State) : (memWrite sp addr v s).cphase = s.cphase := (memWrite_busOnly sp addr v s).cphase
@[simp] theorem memWrite_curEv (sp : Space) (addr : Addr) (v : Byte) (s : State) : (memWrite sp addr v s).curEv = s.curEv := (memWrite_busOnly sp addr v s).curEv
@[simp] theorem memWrite_ackValid (sp : Space) (addr : Addr) (v : Byte) (s : State) : (memWrite sp addr v s).ackValid = s.ackValid := (memWrite_busOnly sp addr v s).ackValid
@[simp] theorem memWrite_ackVal (sp : Space) (addr : Addr) (v : Byte) (s : State) : (memWrite sp addr v s).ackVal = s.ackVal := (memWrite_busOnly sp addr v s).ackVal
@[simp] theorem memWrite_showFps (sp : Space) (addr : Addr) (v : Byte) (s : State) : (memWrite sp addr v s).showFps = s.showFps := (memWrite_busOnly sp addr v s).showFps
@[simp] theorem memWrite_evIllegal (sp : Space) (addr : Addr) (v : Byte) (s : State) : (memWrite sp addr v s).evIllegal = s.evIllegal := (memWrite_busOnly sp addr v s).evIllegal
@[simp] theorem memWrite_hostRefused (sp : Space) (addr : Addr) (v : Byte) (s : State) : (memWrite sp addr v s).hostRefused = s.hostRefused := (memWrite_busOnly sp addr v s).hostRefused
@[simp] theorem memWrite_consFail (sp : Space) (addr : Addr) (v : Byte) (s : State) : (memWrite sp addr v s).consFail = s.consFail := (memWrite_busOnly sp addr v s).consFail
@[simp] theorem memWrite_ctlStatus (sp : Space) (addr : Addr) (v : Byte) (s : State) : (memWrite sp addr v s).ctlStatus = s.ctlStatus := (memWrite_busOnly sp addr v s).ctlStatus
@[simp] theorem memWrite_snapStatus (sp : Space) (addr : Addr) (v : Byte) (s : State) : (memWrite sp addr v s).snapStatus = s.snapStatus := (memWrite_busOnly sp addr v s).snapStatus
@[simp] theorem memWrite_cpu (sp : Space) (addr : Addr) (v : Byte) (s : State) : (memWrite sp addr v s).cpu = s.cpu := (memWrite_busOnly sp addr v s).cpu
@[simp] theorem memWrite_out (sp : Space) (addr : Addr) (v : Byte) (s : State) : (memWrite sp addr v s).out = s.out := (memWrite_busOnly sp addr v s).out
@[simp] theorem memWrite_ctlRdata (sp : Space) (addr : Addr) (v : Byte) (s : State) : (memWrite sp addr v s).ctlRdata = s.ctlRdata := (memWrite_busOnly sp addr v s).ctlRdata
@[simp] theorem memWrite_busRdata (sp : Space) (addr : Addr) (v : Byte) (s : State) : (memWrite sp addr v s).busRdata = s.busRdata := (memWrite_busOnly sp addr v s).busRdata
@[simp] theorem memWrite_busReq (sp : Space) (addr : Addr) (v : Byte) (s : State) : (memWrite sp addr v s).busReq = s.busReq := (memWrite_busOnly sp addr v s).busReq
@[simp] theorem memWrite_hostPort (sp : Space) (addr : Addr) (v : Byte) (s : State) : (memWrite sp addr v s).hostPort = s.hostPort := (memWrite_busOnly sp addr v s).hostPort
@[simp] theorem memWrite_turn (sp : Space) (addr : Addr) (v : Byte) (s : State) : (memWrite sp addr v s).turn = s.turn := (memWrite_busOnly sp addr v s).turn
@[simp] theorem memWrite_tick (sp : Space) (addr : Addr) (v : Byte) (s : State) : (memWrite sp addr v s).tick = s.tick := (memWrite_busOnly sp addr v s).tick
@[simp] theorem memWrite_plat (sp : Space) (addr : Addr) (v : Byte) (s : State) : (memWrite sp addr v s).plat = s.plat := (memWrite_busOnly sp addr v s).plat

/-! runBus -/

@[simp] theorem runBus_running {α : Type} (sp : Space) (p : BusProg α) (s : State) : (runBus sp p s).2.running = s.running := (runBus_busOnly sp p s).running
@[simp] theorem runBus_started {α : Type} (sp : Space) (p : BusProg α) (s : State) : (runBus sp p s).2.started = s.started := (runBus_busOnly sp p s).started
@[simp] theorem runBus_stepMode {α : Type} (sp : Space) (p : BusProg α) (s : State) : (runBus sp p s).2.stepMode = s.stepMode := (runBus_busOnly sp p s).stepMode
@[simp] theorem runBus_quota {α : Type} (sp : Space) (p : BusProg α) (s : State) : (runBus sp p s).2.quota = s.quota := (runBus_busOnly sp p s).quota
@[simp] theorem runBus_region {α : Type} (sp : Space) (p : BusProg α) (s : State) : (runBus sp p s).2.region = s.region := (runBus_busOnly sp p s).region
@[simp] theorem runBus_hasSlc {α : Type} (sp : Space) (p : BusProg α) (s : State) : (runBus sp p s).2.hasSlc = s.hasSlc := (runBus_busOnly sp p s).hasSlc
@[simp] theorem runBus_paused {α : Type} (sp : Space) (p : BusProg α) (s : State) : (runBus sp p s).2.paused = s.paused := (runBus_busOnly sp p s).paused
@[simp] theorem runBus_sphase {α : Type} (sp : Space) (p : BusProg α) (s : State) : (runBus sp p s).2.sphase = s.sphase := (runBus_busOnly sp p s).sphase
@[simp] theorem runBus_pwaitRet {α : Type} (sp : Space) (p : BusProg α) (s : State) : (runBus sp p s).2.pwaitRet = s.pwaitRet := (runBus_busOnly sp p s).pwaitRet
@[simp] theorem runBus_drainPending {α : Type} (sp : Space) (p : BusProg α) (s : State) : (runBus sp p s).2.drainPending = s.drainPending := (runBus_busOnly sp p s).drainPending
@[simp] theorem runBus_cpuCyc {α : Type} (sp : Space) (p : BusProg α) (s : State) : (runBus sp p s).2.cpuCyc = s.cpuCyc := (runBus_busOnly sp p s).cpuCyc
@[simp] theorem runBus_ppuCyc {α : Type} (sp : Space) (p : BusProg α) (s : State) : (runBus sp p s).2.ppuCyc = s.ppuCyc := (runBus_busOnly sp p s).ppuCyc
@[simp] theorem runBus_frameSeq {α : Type} (sp : Space) (p : BusProg α) (s : State) : (runBus sp p s).2.frameSeq = s.frameSeq := (runBus_busOnly sp p s).frameSeq
@[simp] theorem runBus_fault {α : Type} (sp : Space) (p : BusProg α) (s : State) : (runBus sp p s).2.fault = s.fault := (runBus_busOnly sp p s).fault
@[simp] theorem runBus_nmiLatch {α : Type} (sp : Space) (p : BusProg α) (s : State) : (runBus sp p s).2.nmiLatch = s.nmiLatch := (runBus_busOnly sp p s).nmiLatch
@[simp] theorem runBus_nmiPrev {α : Type} (sp : Space) (p : BusProg α) (s : State) : (runBus sp p s).2.nmiPrev = s.nmiPrev := (runBus_busOnly sp p s).nmiPrev
@[simp] theorem runBus_mapCpu {α : Type} (sp : Space) (p : BusProg α) (s : State) : (runBus sp p s).2.mapCpu = s.mapCpu := (runBus_busOnly sp p s).mapCpu
@[simp] theorem runBus_mapPpu {α : Type} (sp : Space) (p : BusProg α) (s : State) : (runBus sp p s).2.mapPpu = s.mapPpu := (runBus_busOnly sp p s).mapPpu
@[simp] theorem runBus_ctrl0 {α : Type} (sp : Space) (p : BusProg α) (s : State) : (runBus sp p s).2.ctrl0 = s.ctrl0 := (runBus_busOnly sp p s).ctrl0
@[simp] theorem runBus_ctrl1 {α : Type} (sp : Space) (p : BusProg α) (s : State) : (runBus sp p s).2.ctrl1 = s.ctrl1 := (runBus_busOnly sp p s).ctrl1
@[simp] theorem runBus_evq {α : Type} (sp : Space) (p : BusProg α) (s : State) : (runBus sp p s).2.evq = s.evq := (runBus_busOnly sp p s).evq
@[simp] theorem runBus_pq {α : Type} (sp : Space) (p : BusProg α) (s : State) : (runBus sp p s).2.pq = s.pq := (runBus_busOnly sp p s).pq
@[simp] theorem runBus_cphase {α : Type} (sp : Space) (p : BusProg α) (s : State) : (runBus sp p s).2.cphase = s.cphase := (runBus_busOnly sp p s).cphase
@[simp] theorem runBus_curEv {α : Type} (sp : Space) (p : BusProg α) (s : State) : (runBus sp p s).2.curEv = s.curEv := (runBus_busOnly sp p s).curEv
@[simp] theorem runBus_ackValid {α : Type} (sp : Space) (p : BusProg α) (s : State) : (runBus sp p s).2.ackValid = s.ackValid := (runBus_busOnly sp p s).ackValid
@[simp] theorem runBus_ackVal {α : Type} (sp : Space) (p : BusProg α) (s : State) : (runBus sp p s).2.ackVal = s.ackVal := (runBus_busOnly sp p s).ackVal
@[simp] theorem runBus_showFps {α : Type} (sp : Space) (p : BusProg α) (s : State) : (runBus sp p s).2.showFps = s.showFps := (runBus_busOnly sp p s).showFps
@[simp] theorem runBus_evIllegal {α : Type} (sp : Space) (p : BusProg α) (s : State) : (runBus sp p s).2.evIllegal = s.evIllegal := (runBus_busOnly sp p s).evIllegal
@[simp] theorem runBus_hostRefused {α : Type} (sp : Space) (p : BusProg α) (s : State) : (runBus sp p s).2.hostRefused = s.hostRefused := (runBus_busOnly sp p s).hostRefused
@[simp] theorem runBus_consFail {α : Type} (sp : Space) (p : BusProg α) (s : State) : (runBus sp p s).2.consFail = s.consFail := (runBus_busOnly sp p s).consFail
@[simp] theorem runBus_ctlStatus {α : Type} (sp : Space) (p : BusProg α) (s : State) : (runBus sp p s).2.ctlStatus = s.ctlStatus := (runBus_busOnly sp p s).ctlStatus
@[simp] theorem runBus_snapStatus {α : Type} (sp : Space) (p : BusProg α) (s : State) : (runBus sp p s).2.snapStatus = s.snapStatus := (runBus_busOnly sp p s).snapStatus
@[simp] theorem runBus_cpu {α : Type} (sp : Space) (p : BusProg α) (s : State) : (runBus sp p s).2.cpu = s.cpu := (runBus_busOnly sp p s).cpu
@[simp] theorem runBus_out {α : Type} (sp : Space) (p : BusProg α) (s : State) : (runBus sp p s).2.out = s.out := (runBus_busOnly sp p s).out
@[simp] theorem runBus_ctlRdata {α : Type} (sp : Space) (p : BusProg α) (s : State) : (runBus sp p s).2.ctlRdata = s.ctlRdata := (runBus_busOnly sp p s).ctlRdata
@[simp] theorem runBus_busRdata {α : Type} (sp : Space) (p : BusProg α) (s : State) : (runBus sp p s).2.busRdata = s.busRdata := (runBus_busOnly sp p s).busRdata
@[simp] theorem runBus_busReq {α : Type} (sp : Space) (p : BusProg α) (s : State) : (runBus sp p s).2.busReq = s.busReq := (runBus_busOnly sp p s).busReq
@[simp] theorem runBus_hostPort {α : Type} (sp : Space) (p : BusProg α) (s : State) : (runBus sp p s).2.hostPort = s.hostPort := (runBus_busOnly sp p s).hostPort
@[simp] theorem runBus_turn {α : Type} (sp : Space) (p : BusProg α) (s : State) : (runBus sp p s).2.turn = s.turn := (runBus_busOnly sp p s).turn
@[simp] theorem runBus_tick {α : Type} (sp : Space) (p : BusProg α) (s : State) : (runBus sp p s).2.tick = s.tick := (runBus_busOnly sp p s).tick
@[simp] theorem runBus_plat {α : Type} (sp : Space) (p : BusProg α) (s : State) : (runBus sp p s).2.plat = s.plat := (runBus_busOnly sp p s).plat

/-! ## The read port `busRdata` takes no part in a transaction (log 14) -/

/-- `s` with `x` in the read port. -/
def State.withBusRdata (s : State) (x : Byte) : State := { s with busRdata := x }

theorem withBusRdata_self (s : State) (x : Byte) (h : s.busRdata = x) : s.withBusRdata x = s := by
  subst h
  rfl

theorem devRead_withBusRdata (d : Byte) (sp : Space) (addr : Addr) (s : State) (x : Byte) :
    devRead d sp addr (s.withBusRdata x) = ((devRead d sp addr s).1, (devRead d sp addr s).2.withBusRdata x) := by
  unfold devRead
  have h : (s.withBusRdata x).plat = s.plat := rfl
  rw [h]
  cases s.plat.kindOf d <;> rfl

theorem devWrite_withBusRdata (d : Byte) (sp : Space) (addr : Addr) (v : Byte) (s : State) (x : Byte) :
    devWrite d sp addr v (s.withBusRdata x) = (devWrite d sp addr v s).withBusRdata x := by
  unfold devWrite
  have h : (s.withBusRdata x).plat = s.plat := rfl
  rw [h]
  cases s.plat.kindOf d <;> rfl

theorem setOpenBus_withBusRdata (s : State) (sp : Space) (v x : Byte) :
    (s.withBusRdata x).setOpenBus sp v = (s.setOpenBus sp v).withBusRdata x := by cases sp <;> rfl

theorem lookup_withBusRdata (s : State) (sp : Space) (addr : Addr) (x : Byte) :
    (s.withBusRdata x).lookup sp addr = s.lookup sp addr := by cases sp <;> rfl

theorem openBus_withBusRdata (s : State) (sp : Space) (x : Byte) : (s.withBusRdata x).openBus sp = s.openBus sp := by
  cases sp <;> rfl

theorem memRead_withBusRdata (sp : Space) (addr : Addr) (s : State) (x : Byte) :
    memRead sp addr (s.withBusRdata x) = ((memRead sp addr s).1, (memRead sp addr s).2.withBusRdata x) := by
  unfold memRead
  rw [lookup_withBusRdata]
  cases s.lookup sp addr <;> simp only [openBus_withBusRdata, devRead_withBusRdata, setOpenBus_withBusRdata]

theorem memWrite_withBusRdata (sp : Space) (addr : Addr) (v : Byte) (s : State) (x : Byte) :
    memWrite sp addr v (s.withBusRdata x) = (memWrite sp addr v s).withBusRdata x := by
  unfold memWrite
  rw [lookup_withBusRdata]
  cases s.lookup sp addr <;> simp only [devWrite_withBusRdata, setOpenBus_withBusRdata]

theorem runBus_withBusRdata {α : Type} (sp : Space) (p : BusProg α) (s : State) (x : Byte) :
    runBus sp p (s.withBusRdata x) = ((runBus sp p s).1, (runBus sp p s).2.withBusRdata x) := by
  induction p generalizing s with
  | done => rfl
  | read addr k ih => simp only [runBus, memRead_withBusRdata, ih]
  | write addr v k ih => simp only [runBus, memWrite_withBusRdata, ih]

end Sys2Proof.Machine
end

