-- ==== Sys2Proof/Laws/Scheduler.lean ====
section
/-!
SUPPORT. The scheduler's shared operations as one record update each: everything such an operation can do, which a proof cites
instead of unfolding it.
-/
namespace Sys2Proof.Machine

/-! ## Comparisons -/

theorem owesPpu_iff (s : State) : s.owesPpu = true ↔ 5 ≤ s.quota.toNat := by
  unfold State.owesPpu Config.qDen
  exact decide_eq_true_iff

theorem owesPpu_false_iff (s : State) : s.owesPpu = false ↔ s.quota.toNat < 5 := by
  rw [← Nat.not_le, ← owesPpu_iff, Bool.not_eq_true]

theorem divNum_le (s : State) : s.divNum ≤ 16 := by
  unfold State.divNum Config.divNum
  split <;> omega

theorem mayPushEvent_iff (s : State) : s.mayPushEvent = true ↔ s.running = false ∨ s.evqRoom = true := by
  unfold State.mayPushEvent
  cases s.running <;> simp

/-! ## The stages of a PPU cycle -/

theorem pushIfRunning_eq (s : State) (e : EvEntry) :
    s.pushIfRunning e = { s with evq := if s.running = true then s.evq ++ [e] else s.evq } := by
  unfold State.pushIfRunning State.pushEv
  split <;> rfl

/-- The event a completed frame pushes. -/
def frameEvents (fb : Option (Nat → Nat → Pixel)) (s : State) : List EvEntry :=
  match fb with
  | some pixel => if s.running = true then [frameEntry s.frameSeq (framebufferOf s.plat pixel)] else []
  | none => []

theorem frameStage_eq (fb : Option (Nat → Nat → Pixel)) (s : State) :
    frameStage fb s = { s with
      evq := s.evq ++ frameEvents fb s
      frameSeq := if fb.isSome = true then s.frameSeq + 1 else s.frameSeq
      paused := s.paused || (decide (s.stepMode = .frameStep) && fb.isSome) } := by
  cases fb with
  | none => simp [frameStage, frameEvents]
  | some pixel =>
    simp only [frameStage, frameDone, fpsLimit, State.pausesOnFrame, frameEvents, pushIfRunning_eq]
    by_cases hm : s.stepMode = .frameStep <;> by_cases hr : s.running = true <;> simp [hm, hr]

theorem tickMapper_eq (trigger : Bool) (s : State) :
    tickMapper trigger s =
      { s with mapper := if s.hasSlc = true ∧ trigger = true then Config.mapperTick s.mapper else s.mapper } := by
  unfold tickMapper
  by_cases h : s.hasSlc = true ∧ trigger = true
  · rw [if_pos h, if_pos (Bool.and_eq_true_iff.2 h)]
  · rw [if_neg h, if_neg (fun k => h (Bool.and_eq_true_iff.1 k))]

theorem stepPause_eq (sl : BitVec 16) (s : State) :
    stepPause sl s = { s with paused := s.paused || s.pausesOnCycle sl } := by
  unfold stepPause
  split
  · rename_i h
    rw [h, Bool.or_true]
  · rename_i h
    rw [Bool.not_eq_true] at h
    rw [h, Bool.or_false]

theorem endPpuCycle_eq (s : State) :
    endPpuCycle s =
      { s with pwaitRet := s.pwaitRet || s.paused, sphase := if s.paused = true then SPhase.pwait else s.sphase } := by
  unfold endPpuCycle
  by_cases h : s.paused = true
  · simp [h]
  · have k : (s.pwaitRet || s.paused) = s.pwaitRet := by simp [h]
    rw [if_neg h, if_neg h, k]

/-- PAUSED after a PPU cycle: what it was, or a pause of the step mode (42_scheduler R173 b, e). -/
def pausedBy (slBefore : BitVec 16) (r : PpuResult) (s : State) : Bool :=
  s.paused || decide (s.stepMode = .frameStep) && r.fb.isSome || decide (s.stepMode = .cycleStep) ||
    decide (s.stepMode = .scanlineStep) && r.ppu.scanline != slBefore

/-- A PPU cycle after its PPU step returned. -/
theorem ppuReturned_eq (sl : BitVec 16) (r : PpuResult) (s : State) :
    ppuReturned sl r s = { s with
      ppu := r.ppu
      ppuCyc := s.ppuCyc + 1
      nmiLatch := s.nmiLatch || (r.nmiLevel && !s.nmiPrev)
      nmiPrev := r.nmiLevel
      evq := s.evq ++ frameEvents r.fb s
      frameSeq := if r.fb.isSome = true then s.frameSeq + 1 else s.frameSeq
      mapper := if s.hasSlc = true ∧ Config.ppuTrigger r.ppu = true then Config.mapperTick s.mapper else s.mapper
      quota := s.quota - 5
      paused := pausedBy sl r s
      pwaitRet := s.pwaitRet || pausedBy sl r s
      sphase := if pausedBy sl r s = true then SPhase.pwait else s.sphase } := by
  have h : pausedBy sl r s = (s.paused || decide (s.stepMode = .frameStep) && r.fb.isSome ||
      (decide (s.stepMode = .cycleStep) || decide (s.stepMode = .scanlineStep) && r.ppu.scanline != sl)) := by
    rw [← Bool.or_assoc]
    rfl
  rw [h]
  unfold ppuReturned
  simp only [frameStage_eq, tickMapper_eq, stepPause_eq, endPpuCycle_eq, payCycle, nmiSample]
  rfl

/-- A PPU cycle: `PpuStep` over PPU space, then what `ppuReturned_eq` says; CPU space's latch stays. -/
theorem ppuCycle_eq (s : State) :
    ppuCycle s =
      (let r := (runBus .ppu (Config.ppuStep s.ppu) s).1
       let u := (runBus .ppu (Config.ppuStep s.ppu) s).2
       { s with
         ppu := r.ppu
         dev := u.dev
         openBusPpu := u.openBusPpu
         ppuCyc := s.ppuCyc + 1
         nmiLatch := s.nmiLatch || (r.nmiLevel && !s.nmiPrev)
         nmiPrev := r.nmiLevel
         evq := s.evq ++ frameEvents r.fb s
         frameSeq := if r.fb.isSome = true then s.frameSeq + 1 else s.frameSeq
         mapper := if s.hasSlc = true ∧ Config.ppuTrigger r.ppu = true then Config.mapperTick u.mapper else u.mapper
         quota := s.quota - 5
         paused := pausedBy s.ppu.scanline r s
         pwaitRet := s.pwaitRet || pausedBy s.ppu.scanline r s
         sphase := if pausedBy s.ppu.scanline r s = true then SPhase.pwait else s.sphase }) := by
  unfold ppuCycle
  have hob := runBus_openBus_other .ppu .cpu (Config.ppuStep s.ppu) s (by decide)
  have hb := runBus_busOnly .ppu (Config.ppuStep s.ppu) s
  generalize runBus Space.ppu (Config.ppuStep s.ppu) s = r at *
  obtain ⟨r, u⟩ := r
  obtain ⟨p, m, d, a, b, hx⟩ := hb.fields
  simp only at hx hob ⊢
  subst hx
  simp only [State.openBus] at hob
  subst hob
  rw [ppuReturned_eq]
  rfl

/-- A sample's event. -/
def sampleEvents (r : ApuResult) (s : State) : List EvEntry :=
  if r.produced = true ∧ s.running = true then [bareEntry (sampleWord r.sample)] else []

theorem sampleReturned_eq (r : ApuResult) (s : State) :
    sampleReturned r s = { s with
      cpu := r.cpu, evq := s.evq ++ sampleEvents r s, drainPending := s.drainPending - 1 } := by
  unfold sampleReturned sampleEvents
  cases r.produced <;> cases h : s.running <;> simp [pushIfRunning_eq, h]

/-! ## What a whole step of the scheduler can be -/

theorem execSeqTop_cases (s : State) :
    (s.running = false ∧ execSeqTop s = .next { s with sphase := SPhase.halt }) ∨
      (s.running = true ∧ 5 ≤ s.quota.toNat ∧ execSeqTop s = .next { s with sphase := SPhase.ppu }) ∨
      (s.running = true ∧ s.quota.toNat < 5 ∧ s.drainPending ≠ 0 ∧ execSeqTop s = .next { s with sphase := SPhase.drain }) ∨
      (s.running = true ∧ s.quota.toNat < 5 ∧ s.drainPending = 0 ∧ execSeqTop s = .next (cpuPhase s)) := by
  unfold execSeqTop
  cases hr : s.running
  · exact .inl ⟨rfl, rfl⟩
  · right
    cases ho : s.owesPpu
    · right
      have hq := (owesPpu_false_iff s).1 ho
      by_cases hd : s.drainPending = 0
      · exact .inr ⟨rfl, hq, hd, by simp only [hd]; rfl⟩
      · exact .inl ⟨rfl, hq, hd, by rw [if_neg (by decide), if_neg (by decide), if_pos hd]⟩
    · exact .inl ⟨rfl, (owesPpu_iff s).1 ho, rfl⟩

theorem execSeqPpu_cases (s : State) :
    (s.quota.toNat < 5 ∧ execSeqPpu s = .next { s with sphase := SPhase.drain }) ∨
      (5 ≤ s.quota.toNat ∧ s.mayPushEvent = true ∧ execSeqPpu s = .next (ppuCycle s)) ∨
      (5 ≤ s.quota.toNat ∧ s.mayPushEvent = false ∧ execSeqPpu s = .next s) := by
  unfold execSeqPpu
  cases ho : s.owesPpu
  · exact .inl ⟨(owesPpu_false_iff s).1 ho, rfl⟩
  · right
    have hq := (owesPpu_iff s).1 ho
    cases hm : s.mayPushEvent
    · exact .inr ⟨hq, rfl, rfl⟩
    · exact .inl ⟨hq, rfl, rfl⟩

theorem execSeqDrain_cases (s : State) :
    (s.drainPending = 0 ∧ execSeqDrain s = .next { s with sphase := SPhase.pcheck }) ∨
      (s.drainPending ≠ 0 ∧ s.mayPushEvent = true ∧
        execSeqDrain s = .next (sampleReturned (Config.apuSample s.cpu) s)) ∨
      (s.drainPending ≠ 0 ∧ s.mayPushEvent = false ∧ execSeqDrain s = .next s) := by
  unfold execSeqDrain
  by_cases hd : s.drainPending = 0
  · exact .inl ⟨hd, by rw [if_pos hd]⟩
  · right
    rw [if_neg hd]
    cases hm : s.mayPushEvent
    · exact .inr ⟨hd, rfl, rfl⟩
    · exact .inl ⟨hd, rfl, rfl⟩

theorem execSeqPwait_cases (s : State) :
    (s.pq = [] ∧ s.running = true ∧ execSeqPwait s = .next s) ∨
      ((s.pq ≠ [] ∨ s.running = false) ∧ execSeqPwait s = .next (waitedPause (takePause s))) := by
  unfold execSeqPwait
  by_cases h : s.pq = [] ∧ s.running = true
  · exact .inl ⟨h.1, h.2, by rw [if_pos h]⟩
  · refine .inr ⟨?_, by rw [if_neg h]⟩
    by_cases hp : s.pq = []
    · exact .inr (by simpa [hp] using h)
    · exact .inl hp

/-! ## Pause words -/

/-- `t` is `s` but for PAUSED and an acknowledgement. -/
def PauseOnly (s t : State) : Prop :=
  t = { s with paused := t.paused, ackValid := t.ackValid, ackVal := t.ackVal, out := t.out }

theorem applyPause_only (k : PauseKind) (a : Bool) (c : Byte) (s : State) : PauseOnly s (applyPause k a c s) := by
  unfold PauseOnly applyPause acknowledge
  dsimp only
  split_ifs <;> rfl

theorem applyPause_paused (k : PauseKind) (a : Bool) (c : Byte) (s : State) :
    (applyPause k a c s).paused = pausedAfter k s.paused := by
  unfold applyPause acknowledge
  dsimp only
  split_ifs <;> rfl

/-- Only a request on channel 0 fills the mailbox (43_pause R206). -/
theorem applyPause_ackValid (k : PauseKind) (a : Bool) (c : Byte) (s : State) :
    (applyPause k a c s).ackValid = (s.ackValid || (a && c == 0)) := by
  unfold applyPause acknowledge
  dsimp only
  cases a
  · simp
  · by_cases hc : c = 0#8
    · simp [hc]
    · simp [hc, State.emit]

theorem applyPause_out (k : PauseKind) (a : Bool) (c : Byte) (s : State) : ∃ l, (applyPause k a c s).out = s.out ++ l := by
  unfold applyPause acknowledge
  dsimp only
  split_ifs
  · exact ⟨[], by simp⟩
  · exact ⟨_, rfl⟩
  · exact ⟨[], by simp⟩

theorem onPauseWord_only (q : BitVec 16) (s : State) : PauseOnly s (onPauseWord q s) := by
  unfold onPauseWord
  split <;> first | exact applyPause_only _ _ _ _ | rfl

theorem onPauseWord_out (q : BitVec 16) (s : State) : ∃ l, (onPauseWord q s).out = s.out ++ l := by
  unfold onPauseWord
  split <;> first | exact applyPause_out _ _ _ _ | exact ⟨[], by simp [onQuitsent]⟩

/-- A popped word that asks for no acknowledgement on channel 0 leaves the mailbox alone. -/
theorem onPauseWord_mailbox (q : BitVec 16) (s : State)
    (h : (q.getLsbD 2 && q.extractLsb' 8 8 == 0) = false) : (onPauseWord q s).ackValid = s.ackValid := by
  unfold onPauseWord
  split
  all_goals first
    | rfl
    | (rename_i hd
       unfold decodePq at hd
       split at hd
       · split at hd <;> cases hd
       · split at hd
         · split at hd <;> cases hd <;>
             simp only [onToggle, onPause, onUnpause, applyPause_ackValid, h, Bool.or_false]
         · cases hd)

/-- A pause check: at most the head of PQ is taken. -/
theorem takePause_eq (s : State) :
    takePause s = { s with
      paused := (takePause s).paused, ackValid := (takePause s).ackValid, ackVal := (takePause s).ackVal
      out := (takePause s).out, pq := s.pq.tail } := by
  cases h : s.pq with
  | nil =>
    have hk : takePause s = s := by simp only [takePause, h]
    rw [hk, List.tail_nil, ← h]
  | cons q rest =>
    have hk : takePause s = onPauseWord q { s with pq := rest } := by simp only [takePause, h]
    rw [hk, List.tail_cons]
    exact onPauseWord_only q { s with pq := rest }

theorem takePause_out (s : State) : ∃ l, (takePause s).out = s.out ++ l := by
  unfold takePause
  cases s.pq with
  | nil => exact ⟨[], by simp⟩
  | cons q rest => exact onPauseWord_out q { s with pq := rest }

end Sys2Proof.Machine
end

