-- ==== Sys2Proof/Laws/Step.lean ====
section
/-!
SUPPORT. What a step can be: every step that answers a next state is one of the cases of `StepCase`.
-/
namespace Sys2Proof.Machine

/-- The cases of a step that answers a next state. -/
inductive StepCase (s t : State) : Prop where
  | bus (b : BitVec 26) (hb : s.busReq = some b) (h : exec (decodeBus b) { s with busReq := none } = .next t)
  | scheduler (i : Instr) (hb : s.busReq = none) (ht : s.turn = .scheduler) (hd : decodeSphase s.sphase = .instr i)
      (h : exec i s.pass = .next t)
  | consumer (i : Instr) (hb : s.busReq = none) (ht : s.turn = .consumer) (hd : decodeCphase s.cphase = .instr i)
      (h : exec i s.pass = .next t)
  | command (c : BitVec 64) (i : Instr) (port : List HostCmd) (hb : s.busReq = none) (ht : s.turn = .host)
      (hd : decodeCtl c = .instr i) (h : exec i { s.pass with hostPort := port } = .next t)
  | badCommand (port : List HostCmd) (hb : s.busReq = none) (ht : s.turn = .host)
      (h : t = illegalCtl { s.pass with hostPort := port })
  | push (w : BitVec 32) (img : Option Image) (port : List HostCmd) (hb : s.busReq = none) (ht : s.turn = .host)
      (h : t = hostPush w img { s.pass with hostPort := port })
  | quiet (port : List HostCmd) (hb : s.busReq = none) (ht : s.turn = .host) (h : t = { s.pass with hostPort := port })

theorem pass_hostPort_self (s : State) : { s.pass with hostPort := s.hostPort } = s.pass := rfl

/-! ## What the host's ports let through -/

/-- A control word is taken past every push that waits for room. -/
theorem takeCmd_ctl (room : Bool) (c : BitVec 64) (before after : List HostCmd)
    (h : ∀ b ∈ before, (∃ w img, b = .push w img) ∧ room = false) :
    takeCmd room (before ++ .ctl c :: after) = some (.ctl c, before ++ after) := by
  induction before with
  | nil => rfl
  | cons b rest ih =>
    obtain ⟨⟨w, img, rfl⟩, rfl⟩ := h b (by simp)
    simp [takeCmd, ih fun b hb => h b (by simp [hb])]

/-- With room on EVQ the oldest command is taken. -/
theorem takeCmd_room (c : HostCmd) (rest : List HostCmd) : takeCmd true (c :: rest) = some (c, rest) := by
  cases c <;> rfl

/-- Nothing can be taken exactly when all that waits are pushes without room. -/
theorem takeCmd_none (room : Bool) (port : List HostCmd) :
    takeCmd room port = none ↔ ∀ b ∈ port, (∃ w img, b = .push w img) ∧ room = false := by
  induction port with
  | nil => simp [takeCmd]
  | cons b rest ih =>
    cases b with
    | ctl c => simp [takeCmd]
    | push w img =>
      cases room with
      | false =>
        have hs : takeCmd false (.push w img :: rest) = none ↔ takeCmd false rest = none := by
          simp only [takeCmd]
          cases takeCmd false rest <;> simp
        rw [hs, ih, List.forall_mem_cons]
        exact ⟨fun h => ⟨⟨⟨w, img, rfl⟩, rfl⟩, h⟩, And.right⟩
      | true =>
        rw [takeCmd_room, List.forall_mem_cons]
        exact ⟨nofun, fun h => nomatch h.1.2⟩

theorem fetchCmd_cases {s t : State} (c : HostCmd) (port : List HostCmd) (hb : s.busReq = none) (ht : s.turn = .host)
    (h : (match fetchCmd c { s.pass with hostPort := port } with
      | .run i u => exec i u
      | .done u => .next u
      | .stuck f => .fault f) = Host.Outcome.next t) : StepCase s t := by
  cases c with
  | ctl w =>
    simp only [fetchCmd] at h
    cases hd : decodeCtl w with
    | instr i =>
      rw [hd] at h
      exact .command w i port hb ht hd h
    | reject why =>
      rw [hd] at h
      exact .badCommand port hb ht (by cases h; rfl)
  | push w img =>
    simp only [fetchCmd] at h
    split at h
    · exact .push w img port hb ht (by cases h; rfl)
    · exact .quiet (port ++ [.push w img]) hb ht (by cases h; rfl)

/-- The inversion of `step`. -/
theorem step_cases {s t : State} (h : step s = .next t) : StepCase s t := by
  unfold step fetch at h
  cases hb : s.busReq with
  | some b =>
    rw [hb] at h
    exact .bus b hb h
  | none =>
    rw [hb] at h
    cases ht : s.turn with
    | scheduler =>
      simp only [ht, fetchPhase] at h
      cases hd : decodeSphase s.sphase with
      | instr i =>
        rw [hd] at h
        exact .scheduler i hb ht hd h
      | reject why =>
        rw [hd] at h
        cases h
    | consumer =>
      simp only [ht, fetchPhase] at h
      cases hd : decodeCphase s.cphase with
      | instr i =>
        rw [hd] at h
        exact .consumer i hb ht hd h
      | reject why =>
        rw [hd] at h
        cases h
    | host =>
      simp only [ht, fetchHost] at h
      cases hp : takeCmd s.evqRoom s.hostPort with
      | some r =>
        rw [hp] at h
        exact fetchCmd_cases r.1 r.2 hb ht h
      | none =>
        rw [hp] at h
        simp only at h
        cases hc : Config.hostInput s.tick with
        | some c =>
          rw [hc] at h
          exact fetchCmd_cases c s.hostPort hb ht h
        | none =>
          rw [hc] at h
          exact .quiet s.hostPort hb ht (by cases h; rfl)

/-- A host's step is the command it takes, run on the state with the rest left at the ports. -/
theorem step_of_hostTakes {s : State} {c : HostCmd} {port : List HostCmd} (h : HostTakes s c port) :
    step s = match fetchCmd c { s.pass with hostPort := port } with
      | .run i t => exec i t
      | .done t => .next t
      | .stuck f => .fault f := by
  obtain ⟨hb, ht, h⟩ := h
  unfold step fetch fetchHost
  rw [hb, ht]
  simp only
  rcases h with ⟨before, rest, hp, rfl, hbl, hn⟩ | ⟨hbl, hi, rfl⟩
  · have htake : takeCmd s.evqRoom s.hostPort = some (c, before ++ rest) := by
      rw [hp]
      cases c with
      | ctl c => exact takeCmd_ctl _ _ _ _ hbl
      | push w img =>
        have hr : s.evqRoom = true := by
          cases he : s.evqRoom with
          | true => rfl
          | false => exact absurd ⟨⟨w, img, rfl⟩, he⟩ hn
        cases before with
        | nil =>
          rw [hr]
          exact takeCmd_room _ _
        | cons b _ => exact absurd (hbl b (by simp)).2 (by simp [hr])
    rw [htake] <;> rfl
  · rw [(takeCmd_none _ _).2 hbl, hi] <;> rfl

/-- The sequencer instruction of each SPHASE code (30_encoding R111). -/
theorem decodeSphase_cases {p : BitVec 4} {i : Instr} (h : decodeSphase p = .instr i) :
    (p = SPhase.idle ∧ i = .seqIdle) ∨ (p = SPhase.top ∧ i = .seqTop) ∨ (p = SPhase.ppu ∧ i = .seqPpu) ∨
      (p = SPhase.drain ∧ i = .seqDrain) ∨ (p = SPhase.pcheck ∧ i = .seqPcheck) ∨ (p = SPhase.pwait ∧ i = .seqPwait) ∨
      (p = SPhase.exitchk ∧ i = .seqExitchk) ∨ (p = SPhase.halt ∧ i = .seqHalt) := by
  unfold decodeSphase at h
  split at h <;> simp_all

/-- The sequencer instruction of each CPHASE code (30_encoding R112). -/
theorem decodeCphase_cases {p : BitVec 3} {i : Instr} (h : decodeCphase p = .instr i) :
    (p = CPhase.idle ∧ i = .seqCIdle) ∨ (p = CPhase.fetch ∧ i = .seqCFetch) ∨ (p = CPhase.saveAck ∧ i = .seqCSaveAck) ∨
      (p = CPhase.loadAck ∧ i = .seqCLoadAck) ∨ (p = CPhase.halt ∧ i = .seqCHalt) := by
  unfold decodeCphase at h
  split at h <;> simp_all

/-- A bus request is a read or a write (30_encoding R110). -/
theorem decodeBus_cases (b : BitVec 26) :
    (∃ sp addr v, decodeBus b = .busRd sp addr v) ∨ ∃ sp addr v, decodeBus b = .busWr sp addr v := by
  unfold decodeBus
  split
  · exact .inr ⟨_, _, _, rfl⟩
  · exact .inl ⟨_, _, _, rfl⟩

/-- A control word is one of the six commands (30_encoding R107). -/
theorem decodeCtl_cases {c : BitVec 64} {i : Instr} (h : decodeCtl c = .instr i) :
    (∃ r f, i = .ctlConfig r f) ∨ (∃ sp d lo hi, i = .ctlMapAdd sp d lo hi) ∨ i = .ctlReset ∨ i = .ctlStart ∨
      (∃ n, i = .ctlCsrRead n) ∨ i = .ctlSinkFatal := by
  unfold decodeCtl at h
  split at h <;> (try split at h) <;> cases h <;> simp

/-- The requests the scheduler can pop (30_encoding R105). -/
theorem decodePq_cases {q : BitVec 16} {i : Instr} (h : decodePq q = .instr i) :
    (i = .pqToggle (q.getLsbD 2) (q.extractLsb' 8 8)) ∨ (i = .pqPause (q.getLsbD 2) (q.extractLsb' 8 8)) ∨
      (i = .pqUnpause (q.getLsbD 2) (q.extractLsb' 8 8)) ∨ (i = .pqQuitsent ∧ q = quitsentWord) := by
  unfold decodePq at h
  split at h
  · split at h <;> simp_all [quitsentWord]
  · split at h
    · split at h <;> simp_all
    · cases h

end Sys2Proof.Machine
end

