-- ==== Sys2Proof/Laws/Cases.lean ====
section
/-!
SUPPORT. What a step of each agent can be, said once: the inversions of the scheduler's, the consumer's and the host's
instructions, which a proof about every step goes through.
-/
namespace Sys2Proof.Machine

/-! ## The scheduler -/

/-- Where a scheduler step that only moves the sequencer goes (42_scheduler R172-R177). -/
inductive SeqMove (s : State) : BitVec 4 → Prop where
  | topQuit (hp : s.sphase = SPhase.top) (hr : s.running = false) : SeqMove s SPhase.halt
  | topPpu (hp : s.sphase = SPhase.top) (hr : s.running = true) (hq : 5 ≤ s.quota.toNat) : SeqMove s SPhase.ppu
  | topDrain (hp : s.sphase = SPhase.top) (hr : s.running = true) (hq : s.quota.toNat < 5) (hd : s.drainPending ≠ 0) :
      SeqMove s SPhase.drain
  | ppuDone (hp : s.sphase = SPhase.ppu) (hq : s.quota.toNat < 5) : SeqMove s SPhase.drain
  | drainDone (hp : s.sphase = SPhase.drain) (hd : s.drainPending = 0) : SeqMove s SPhase.pcheck
  | exitTop (hp : s.sphase = SPhase.exitchk) (hr : s.running = true) : SeqMove s SPhase.top
  | exitHalt (hp : s.sphase = SPhase.exitchk) (hr : s.running = false) : SeqMove s SPhase.halt

/-- What a scheduler step from `s` to `t` can be. -/
inductive SchedCase (s t : State) : Prop where
  | stay (h : t = s)
  | move (p : BitVec 4) (hm : SeqMove s p) (h : t = { s with sphase := p })
  | cpu (r : CpuResult) (u : State) (hp : s.sphase = SPhase.top) (hr : s.running = true) (hq : s.quota.toNat < 5)
      (hd : s.drainPending = 0) (hu : BusOnly s u) (hwf : devWf s.dev = true → devWf u.dev = true)
      (h : t = cpuReturned r u)
  | ppu (sl : BitVec 16) (r : PpuResult) (u : State) (hp : s.sphase = SPhase.ppu) (hq : 5 ≤ s.quota.toNat)
      (hm : s.mayPushEvent = true) (hu : BusOnly s u) (hwf : devWf s.dev = true → devWf u.dev = true)
      (h : t = ppuReturned sl r u)
  | sample (r : ApuResult) (hp : s.sphase = SPhase.drain) (hd : s.drainPending ≠ 0) (hm : s.mayPushEvent = true)
      (h : t = sampleReturned r s)
  | check (hp : s.sphase = SPhase.pcheck) (h : t = checkedPause (takePause s))
  | wait (hp : s.sphase = SPhase.pwait) (hw : s.pq ≠ [] ∨ s.running = false) (h : t = waitedPause (takePause s))

/-- The inversion of a scheduler step. -/
theorem schedCase_of_exec {s t : State} {i : Instr} (hd : decodeSphase s.sphase = .instr i) (h : exec i s = .next t) :
    SchedCase s t := by
  rcases decodeSphase_cases hd with ⟨hp, rfl⟩ | ⟨hp, rfl⟩ | ⟨hp, rfl⟩ | ⟨hp, rfl⟩ | ⟨hp, rfl⟩ | ⟨hp, rfl⟩ | ⟨hp, rfl⟩ |
    ⟨hp, rfl⟩
  · cases h
    exact .stay rfl
  · rcases execSeqTop_cases s with ⟨hr, k⟩ | ⟨hr, hq, k⟩ | ⟨hr, hq, hn, k⟩ | ⟨hr, hq, hz, k⟩ <;> cases k.symm.trans h
    · exact .move _ (.topQuit hp hr) rfl
    · exact .move _ (.topPpu hp hr hq) rfl
    · exact .move _ (.topDrain hp hr hq hn) rfl
    · exact .cpu _ _ hp hr hq hz (runBus_busOnly _ _ s) (runBus_wf _ _ s) rfl
  · rcases execSeqPpu_cases s with ⟨hq, k⟩ | ⟨hq, hm, k⟩ | ⟨hq, hm, k⟩ <;> cases k.symm.trans h
    · exact .move _ (.ppuDone hp hq) rfl
    · exact .ppu _ _ _ hp hq hm (runBus_busOnly _ _ s) (runBus_wf _ _ s) rfl
    · exact .stay rfl
  · rcases execSeqDrain_cases s with ⟨hz, k⟩ | ⟨hz, hm, k⟩ | ⟨hz, hm, k⟩ <;> cases k.symm.trans h
    · exact .move _ (.drainDone hp hz) rfl
    · exact .sample _ hp hz hm rfl
    · exact .stay rfl
  · cases h
    exact .check hp rfl
  · rcases execSeqPwait_cases s with ⟨hq, hr, k⟩ | ⟨hw, k⟩ <;> cases k.symm.trans h
    · exact .stay rfl
    · exact .wait hp hw rfl
  · simp only [exec, execSeqExitchk, Host.Outcome.next.injEq] at h
    by_cases hr : s.running = true
    · rw [if_pos hr] at h
      exact .move _ (.exitTop hp hr) h.symm
    · rw [if_neg hr] at h
      exact .move _ (.exitHalt hp (by simpa using hr)) h.symm
  · cases h
    exact .stay rfl

/-- A popped word does what its instruction does. -/
theorem onPauseWord_exec {q : BitVec 16} {i : Instr} {s u : State} (h : decodePq q = .instr i) (he : exec i s = .next u) :
    onPauseWord q s = u := by
  unfold onPauseWord
  rw [h]
  rcases decodePq_cases h with rfl | rfl | rfl | ⟨rfl, _⟩ <;> cases he <;> rfl

/-- A run of two lists of instructions is a run of the first and then of the second. -/
theorem execAll_append (a b : List Instr) (s : State) :
    execAll (a ++ b) s =
      match execAll a s with
      | .next t => execAll b t
      | .fault f => .fault f
      | .refused r => .refused r := by
  induction a generalizing s with
  | nil => rfl
  | cons i a ih =>
    simp only [List.cons_append, execAll]
    cases exec i s <;> simp [ih]

/-! ## The consumer -/

/-- What a consumer step from `s` to `t` can be. -/
inductive ConsCase (s t : State) : Prop where
  | stay (h : t = s)
  | quit (hp : s.cphase = CPhase.fetch) (hr : s.running = false) (h : t = { s with cphase := CPhase.halt })
  | entry (e : EvEntry) (rest : List EvEntry) (hp : s.cphase = CPhase.fetch) (hr : s.running = true)
      (he : s.evq = e :: rest) (hroom : pushesPause e = true → s.pqRoom = true)
      (h : t = onEntry e { s with evq := rest })
  | abort (hp : s.cphase = CPhase.saveAck ∨ s.cphase = CPhase.loadAck) (hh : s.sphase = SPhase.halt)
      (h : t = abortHandshake s)
  | save (hp : s.cphase = CPhase.saveAck) (ha : s.ackValid = true) (hh : s.sphase ≠ SPhase.halt) (h : t = finishSave s)
  | load (hp : s.cphase = CPhase.loadAck) (ha : s.ackValid = true) (hh : s.sphase ≠ SPhase.halt) (h : t = finishLoad s)

theorem handshakeReady_iff (s : State) : s.handshakeReady = true ↔ s.ackValid = true ∨ s.sphase = SPhase.halt := by
  unfold State.handshakeReady
  simp

/-- The inversion of a consumer step. -/
theorem consCase_of_exec {s t : State} {i : Instr} (hd : decodeCphase s.cphase = .instr i) (h : exec i s = .next t) :
    ConsCase s t := by
  have ready : ¬s.handshakeReady = false → s.ackValid = true ∨ s.sphase = SPhase.halt := fun k =>
    (handshakeReady_iff s).1 (by simpa using k)
  rcases decodeCphase_cases hd with ⟨hp, rfl⟩ | ⟨hp, rfl⟩ | ⟨hp, rfl⟩ | ⟨hp, rfl⟩ | ⟨hp, rfl⟩
  · cases h
    exact .stay rfl
  · simp only [exec, execSeqCFetch, Host.Outcome.next.injEq] at h
    by_cases hr : s.running = false
    · rw [if_pos hr] at h
      exact .quit hp hr h.symm
    · rw [if_neg hr] at h
      cases he : s.evq with
      | nil =>
        rw [he] at h
        exact .stay h.symm
      | cons e rest =>
        rw [he] at h
        dsimp only at h
        split at h
        · exact .stay h.symm
        · rename_i hn
          refine .entry e rest hp (by simpa using hr) he (fun hpush => ?_) h.symm
          simpa [hpush] using hn
  · simp only [exec, execSeqCSaveAck, Host.Outcome.next.injEq] at h
    split at h
    · exact .stay h.symm
    · rename_i hn
      split at h
      · rename_i hh
        exact .abort (.inl hp) hh h.symm
      · rename_i hh
        exact .save hp ((ready hn).resolve_right hh) hh h.symm
  · simp only [exec, execSeqCLoadAck, Host.Outcome.next.injEq] at h
    split at h
    · exact .stay h.symm
    · rename_i hn
      split at h
      · rename_i hh
        exact .abort (.inr hp) hh h.symm
      · rename_i hh
        exact .load hp ((ready hn).resolve_right hh) hh h.symm
  · cases h
    exact .stay rfl

/-- A legal entry is one of the ten events, and its operands are well-formed (30_encoding R104). -/
theorem decodeEv_cases {e : EvEntry} {i : Instr} (h : decodeEv e = .instr i) :
    (∃ q fb, i = .evFrame q fb) ∨ (∃ x, i = .evSample x) ∨ (∃ p b d, i = .evInput p b d) ∨
      (∃ k a c, i = .evPause k a c ∧ ackMatchesChan a c = true) ∨ i = .evSavestate ∨ (∃ img, i = .evLoadstate img) ∨
      i = .evQuit ∨ i = .evFramestep ∨ i = .evShowfps ∨ ∃ m, i = .evSetstep m := by
  unfold decodeEv decodeEvWord at h
  repeat' split at h
  all_goals first
    | (cases h; done)
    | (cases h; simp; done)
    | (cases h; exact .inr (.inr (.inr (.inl ⟨_, _, _, rfl, by assumption⟩))))

/-- What a popped entry can do to the state (44_events R223-R233). -/
inductive EntryCase (e : EvEntry) (s t : State) : Prop where
  | frame (seq : BitVec 28) (fb : Framebuffer) (h : t = { s with out := s.out ++ [.videoFrame seq fb s.showFps] })
  | sample (w : BitVec 16) (h : t = { s with out := s.out ++ [.audioSample w.toInt] })
  | input (c0 c1 : Byte) (h : t = { s with ctrl0 := c0, ctrl1 := c1 })
  | pause (kind : PauseKind) (ack : Bool) (chan : Byte) (hd : decodeEv e = .instr (.evPause kind ack chan))
      (h : t = { s with pq := s.pq ++ [pauseWord kind ack chan] })
  | save (hd : decodeEv e = .instr .evSavestate)
      (h : t = { s with
        pq := s.pq ++ [handshakeWord], curEv := some ⟨0x50000000, none, none⟩, cphase := CPhase.saveAck })
  | load (img : Image) (hd : decodeEv e = .instr (.evLoadstate img))
      (h : t = { s with
        pq := s.pq ++ [handshakeWord], curEv := some ⟨0x60000000, none, some img⟩, cphase := CPhase.loadAck })
  | quit (hd : decodeEv e = .instr .evQuit) (h : t = { s with pq := s.pq ++ [quitsentWord], running := false })
  | step (mode : StepMode) (h : t = { s with stepMode := mode })
  | fps (h : t = { s with showFps := !s.showFps })
  | discard (h : t = { s with evIllegal := true })

/-- One button's bit is written and the other seven keep theirs (44_events R225). -/
theorem withButton_getLsbD (latch : Byte) (button : BitVec 3) (down : Bool) (b : Nat) (hb : b < 8) :
    (withButton latch button down).getLsbD b = if b = button.toNat then down else latch.getLsbD b := by
  have mask : (1#8 <<< button.toNat).getLsbD b = decide (b = button.toNat) := by
    rw [BitVec.getLsbD_shiftLeft, BitVec.getLsbD_one]
    have := button.isLt
    by_cases h : b = button.toNat <;> simp [h] <;> omega
  unfold withButton
  cases down <;>
    simp only [Bool.false_eq_true, if_false, if_true, BitVec.getLsbD_or, BitVec.getLsbD_and, BitVec.getLsbD_not, mask] <;>
    by_cases h : b = button.toNat <;> simp [h]
  omega

theorem setCtrl_eq (s : State) (port : BitVec 1) (v : Byte) :
    ∃ c0 c1, s.setCtrl port v = { s with ctrl0 := c0, ctrl1 := c1 } := by
  unfold State.setCtrl
  split
  · exact ⟨v, s.ctrl1, rfl⟩
  · exact ⟨s.ctrl0, v, rfl⟩

/-- The inversion of a handler. -/
theorem entryCase (e : EvEntry) (s : State) : EntryCase e s (onEntry e s) := by
  unfold onEntry
  cases hd : decodeEv e with
  | reject why => exact .discard rfl
  | instr i =>
    cases i with
    | evFrame seq fb => exact .frame seq fb rfl
    | evSample w => exact .sample w rfl
    | evInput port button down =>
      obtain ⟨c0, c1, h⟩ := setCtrl_eq s port (withButton (s.ctrl port) button down)
      exact .input c0 c1 h
    | evPause kind ack chan => exact .pause kind ack chan hd rfl
    | evSavestate => exact .save hd rfl
    | evLoadstate img => exact .load img hd rfl
    | evQuit => exact .quit hd rfl
    | evFramestep => exact .step .frameStep rfl
    | evShowfps => exact .fps rfl
    | evSetstep mode => exact .step mode rfl
    | _ => exact .discard rfl

/-- The end of an acknowledged handshake as one record update. -/
theorem endHandshake_eq (code : SnapStatus) (changed : Bool) (s : State) :
    endHandshake code changed s = { s with
      out := s.out ++ [.snapReport code]
      snapStatus := code
      pq := if changed = true then s.pq ++ [resumeWord] else s.pq
      curEv := none
      cphase := CPhase.fetch } := by
  cases changed <;> rfl

/-- A finished save as one record update. -/
theorem finishSave_eq (s : State) :
    finishSave s = { s with
      ackValid := false
      out := s.out ++ [.snapImage (captureImage s), .snapReport .saved]
      snapStatus := .saved
      pq := if s.ackVal = true then s.pq ++ [resumeWord] else s.pq
      curEv := none
      cphase := CPhase.fetch } := by
  unfold finishSave
  simp only [endHandshake_eq, State.emit, List.append_assoc, List.singleton_append]
  rfl

/-- Both checks of 45_snapshot R263, in numbers. -/
theorem recordFits_iff (region : Region) (r : SnapRecord) :
    recordFits region r = true ↔
      (r.cpuCyc.toNat * Config.divNum region) % 2 ^ 64 = (r.ppuCyc.toNat * 5 + r.quota.toNat) % 2 ^ 64 ∧
        r.quota.toNat ≤ 4 + 65535 * Config.divNum region := by
  unfold recordFits ratioHolds quotaMax Config.qDen
  rw [Bool.and_eq_true, beq_iff_eq, decide_eq_true_iff]

/-- A record that passed the checks fits the block (45_snapshot R263). -/
theorem checkImage_fits {region : Region} {img : Image} {code : SnapStatus} {r : SnapRecord}
    (h : checkImage region img = (code, some r)) : code = .loaded ∧ recordFits region r = true := by
  unfold checkImage at h
  split at h <;> try cases h
  split at h
  · cases h
  · split at h
    · cases h
    · split at h
      · cases h
      · split at h
        · cases h
          exact ⟨rfl, ‹_›⟩
        · cases h

/-- An image that fails a check gives no LOADED (45_snapshot R263). -/
theorem checkImage_none {region : Region} {img : Image} {code : SnapStatus}
    (h : checkImage region img = (code, none)) : code ≠ .loaded := by
  unfold checkImage at h
  split at h
  · cases h
    decide
  · cases h
    decide
  · split at h
    · cases h
      decide
    · split at h
      · cases h
        decide
      · split at h
        · cases h
          decide
        · split at h <;> cases h
          decide

/-- A finished load: either nothing of the engine changed, or a record that fits was applied whole. -/
theorem finishLoad_cases (s : State) :
    (∃ code, code ≠ SnapStatus.loaded ∧ finishLoad s = endHandshake code s.ackVal { s with ackValid := false }) ∨
      ∃ r, recordFits s.region r = true ∧
        finishLoad s = endHandshake .loaded s.ackVal (applyRecord r { s with ackValid := false }) := by
  unfold finishLoad loadImage
  dsimp only
  cases hc : checkImage s.region s.curImage with
  | mk code o =>
    cases o with
    | none => exact .inl ⟨code, checkImage_none hc, rfl⟩
    | some r =>
      obtain ⟨rfl, hf⟩ := checkImage_fits hc
      exact .inr ⟨r, hf, rfl⟩

/-! ## The host's commands -/

/-- What a control word's instruction from `s` to `t` can do. -/
inductive CtlCase (s t : State) : Prop where
  | status (code : CtlStatus) (h : t = { s with ctlStatus := code })
  | config (region : Region) (hasSlc : Bool) (hb : s.busy = false)
      (h : t = { s with region := region, hasSlc := hasSlc, ctlStatus := .ok })
  | failed (code : CtlStatus) (hb : s.busy = false) (h : t = { s with ctlStatus := code, consFail := true })
  | mapAdd (sp : Space) (dev : Byte) (lo hi : Addr) (hb : s.busy = false) (hdev : dev ≠ 0)
      (hk : s.plat.hasDevice dev = true) (hr : ¬hi < lo) (ha : ((s.map sp).any fun e => entryMeets e lo hi) = false)
      (hl : (s.map sp).length < 32) (h : t = { s.setMap sp (s.map sp ++ [⟨lo, hi, dev⟩]) with ctlStatus := .ok })
  | reset (hb : s.busy = false) (h : t = { doReset s with ctlStatus := .ok })
  | start (hb : s.busy = false)
      (h : t = { doReset s with
        mapper := Config.batteryLoad s.mapper
        running := true, started := true, sphase := SPhase.top, cphase := CPhase.fetch, ctlStatus := .ok })
  | read (v : BitVec 64) (h : t = { s with ctlRdata := v })
  | illegal (h : t = { s with ctlStatus := .illegal, ctlRdata := 0 })
  | sinkFatal (hr : s.running = true) (h : t = { fatalEntry .sinkFailure s with ctlStatus := .ok })

/-- The inversion of a host command. -/
theorem ctlCase_of_exec {s t : State} {c : BitVec 64} {i : Instr} (hd : decodeCtl c = .instr i) (h : exec i s = .next t) :
    CtlCase s t := by
  have idle : ¬s.busy = true → s.busy = false := fun k => by simpa using k
  rcases decodeCtl_cases hd with ⟨r, f, rfl⟩ | ⟨sp, d, lo, hi, rfl⟩ | rfl | rfl | ⟨n, rfl⟩ | rfl
  · simp only [exec, execCtlConfig, Host.Outcome.next.injEq] at h
    split at h
    · exact .status _ h.symm
    · exact .config r f (idle ‹_›) h.symm
  · simp only [exec, execCtlMapAdd, Host.Outcome.next.injEq] at h
    split at h
    · exact .status _ h.symm
    rename_i h1
    split at h
    · exact .status _ h.symm
    split at h
    · exact .failed _ (idle ‹_›) h.symm
    split at h
    · exact .failed _ (idle ‹_›) h.symm
    split at h
    · exact .failed _ (idle ‹_›) h.symm
    rename_i hb hr ha hl
    rw [not_or] at h1
    exact .mapAdd sp d lo hi (idle hb) h1.1 (by simpa using h1.2) hr (by simpa using ha)
      (Nat.lt_of_not_le hl) h.symm
  · simp only [exec, execCtlReset, Host.Outcome.next.injEq] at h
    split at h
    · exact .status _ h.symm
    · exact .reset (idle ‹_›) h.symm
  · simp only [exec, execCtlStart, Host.Outcome.next.injEq] at h
    split at h
    · exact .status _ h.symm
    · split at h
      · exact .status _ h.symm
      · exact .start (idle ‹_›) h.symm
  · simp only [exec, execCtlCsrRead, Host.Outcome.next.injEq] at h
    split at h
    · exact .read _ h.symm
    · exact .illegal h.symm
  · simp only [exec, execCtlSinkFatal, Host.Outcome.next.injEq] at h
    split at h
    · exact .sinkFatal ‹_› h.symm
    · exact .status _ h.symm

/-- A command that is not BUSY comes before START, with the scheduler in IDLE. -/
theorem busy_false_iff (s : State) : s.busy = false ↔ s.sphase = SPhase.idle ∧ s.started = false := by
  unfold State.busy
  simp

/-- A bus request does nothing but a byte transaction and its read data. -/
theorem bus_exec {s t : State} {b : BitVec 26} (h : exec (decodeBus b) s = .next t) :
    ∃ u v, BusOnly s u ∧ (devWf s.dev = true → devWf u.dev = true) ∧ t = { u with busRdata := v } := by
  rcases decodeBus_cases b with ⟨sp, addr, v, hi⟩ | ⟨sp, addr, v, hi⟩ <;> rw [hi] at h <;> cases h
  · exact ⟨_, _, memRead_busOnly sp addr s, memRead_wf sp addr s, rfl⟩
  · exact ⟨_, _, memWrite_busOnly sp addr v s, memWrite_wf sp addr v s, rfl⟩

/-! ## Every step -/

/-- What holds of every step of every agent: it is enough to show it of the cases above, and that the fields of the schedule
and of the ports (`turn`, `tick`, `hostPort`, `busReq`) do not matter to it. -/
theorem step_ind {P : State → State → Prop} (hsched : ∀ s t, SchedCase s t → P s t) (hcons : ∀ s t, ConsCase s t → P s t)
    (hctl : ∀ s t, CtlCase s t → P s t)
    (hbus : ∀ s u v, BusOnly s u → (devWf s.dev = true → devWf u.dev = true) → P s { u with busRdata := v })
    (hpush : ∀ s w img, P s (hostPush w img s)) (hquiet : ∀ s, P s s)
    (hside : ∀ s t turn tick port, P { s with turn := turn, tick := tick, hostPort := port } t → P s t)
    (hreq : ∀ s t, P { s with busReq := none } t → P s t) {s t : State} (h : step s = .next t) : P s t := by
  cases step_cases h with
  | bus b hb h =>
    apply hreq
    obtain ⟨u, v, hu, hwf, rfl⟩ := bus_exec h
    exact hbus _ u v hu hwf
  | scheduler i hb ht hd h => exact hside s t _ _ s.hostPort (hsched _ _ (schedCase_of_exec (s := s.pass) hd h))
  | consumer i hb ht hd h => exact hside s t _ _ s.hostPort (hcons _ _ (consCase_of_exec (s := s.pass) hd h))
  | command c i port hb ht hd h => exact hside s t _ _ port (hctl _ _ (ctlCase_of_exec hd h))
  | badCommand port hb ht h =>
    subst h
    exact hside s _ _ _ port (hctl _ _ (.illegal rfl))
  | push w img port hb ht h =>
    subst h
    exact hside s _ _ _ port (hpush _ _ _)
  | quiet port hb ht h =>
    subst h
    exact hside s _ _ _ port (hquiet _)

end Sys2Proof.Machine
end

