-- ==== Sys2Proof/Laws/Csr.lean ====
section
/-!
SUPPORT. The register map read back: the fields of a CSR, bit by bit, and the registers of the three ranges of numbers.
-/
namespace Sys2Proof.Machine

/-- The bits of a field standing at `pos`. -/
theorem field_getLsbD {n : Nat} (v : BitVec n) (pos i : Nat) (hi : i < 64) :
    (field v pos).getLsbD i = (decide (pos ≤ i) && v.getLsbD (i - pos)) := by
  unfold field
  rw [BitVec.getLsbD_shiftLeft, BitVec.getLsbD_setWidth]
  have k : i - pos < 64 := by omega
  by_cases h : pos ≤ i
  · have j : ¬i < pos := by omega
    simp only [hi, j, k, h, decide_true, decide_false, Bool.not_false, Bool.true_and]
  · have j : i < pos := by omega
    simp only [j, h, decide_true, decide_false, Bool.not_true, Bool.and_false, Bool.false_and]

/-- The number of a queue's entries as a register shows it (10_state R54). -/
theorem countWord_toNat (n : Nat) : (countWord n).toNat = min n (2 ^ 32 - 1) := by
  unfold countWord
  rw [BitVec.toNat_ofNat, Nat.mod_eq_of_lt]
  omega

/-- The registers above 0x15. -/
theorem csr_above (s : State) (n : BitVec 8) (m : Nat) (h : n.toNat = m + 22) :
    s.csr n =
      if 0x20 ≤ m + 22 ∧ m + 22 ≤ 0x3F then some (mapCsr s.mapCpu (m + 22 - 0x20))
      else if 0x40 ≤ m + 22 ∧ m + 22 ≤ 0x5F then some (mapCsr s.mapPpu (m + 22 - 0x40))
      else none := by
  unfold State.csr
  rw [h]
  rfl

/-- The reserved numbers (10_state R56). -/
theorem csr_reserved (s : State) (n : BitVec 8) (h : (0x16 ≤ n.toNat ∧ n.toNat ≤ 0x1F) ∨ 0x60 ≤ n.toNat) :
    s.csr n = none := by
  rw [csr_above s n (n.toNat - 22) (by omega), if_neg (by omega), if_neg (by omega)]

/-- `MAP_CPU[i]`. -/
theorem csr_mapCpu (s : State) (i : Nat) (h : i < 32) :
    s.csr (BitVec.ofNat 8 (0x20 + i)) = some (mapCsr s.mapCpu i) := by
  rw [csr_above s _ (10 + i) (by rw [BitVec.toNat_ofNat]; omega), if_pos (by omega)]
  congr 2
  omega

/-- `MAP_PPU[i]`. -/
theorem csr_mapPpu (s : State) (i : Nat) (h : i < 32) :
    s.csr (BitVec.ofNat 8 (0x40 + i)) = some (mapCsr s.mapPpu i) := by
  rw [csr_above s _ (42 + i) (by rw [BitVec.toNat_ofNat]; omega), if_neg (by omega), if_pos (by omega)]
  congr 2
  omega

end Sys2Proof.Machine
end

