-- ==== Sys2Proof/Laws/Decode.lean ====
section
/-!
SUPPORT. The fields of the encoder's words, one lemma each, and the words rebuilt from their fields: what a proof about the
decoders cites instead of unfolding a concatenation.
-/
namespace Sys2Proof

/-! ## Field codes -/

@[simp] theorem stepModeOf_bits (m : StepMode) : stepModeOf (stepModeBits m) = m := by cases m <;> rfl
@[simp] theorem pauseKindOf_bits (k : PauseKind) : pauseKindOf (pauseKindBits k) = some k := by cases k <;> rfl
@[simp] theorem stepModeBits_of (b : BitVec 2) : stepModeBits (stepModeOf b) = b := by revert b; decide

theorem pauseKindBits_of {b : BitVec 2} {k : PauseKind} (h : pauseKindOf b = some k) : pauseKindBits k = b := by
  revert b k; decide

theorem pauseKindOf_none_iff (b : BitVec 2) : pauseKindOf b = none ↔ b = 0b11#2 := by revert b; decide

theorem regionOf_bit (r : Region) : regionOf ((regionBit r).getLsbD 0) = r := by cases r <;> rfl
theorem regionBit_of (b : Bool) : regionBit (regionOf b) = BitVec.ofBool b := by cases b <;> rfl
theorem spaceOf_bit (s : Space) : spaceOf ((spaceBit s).getLsbD 0) = s := by cases s <;> rfl
theorem spaceBit_of (b : Bool) : spaceBit (spaceOf b) = BitVec.ofBool b := by cases b <;> rfl

/-! ## SAMPLE -/

@[simp] theorem sampleWord_tag (s : BitVec 16) :
    (sampleWord s).extractLsb' 28 4 = 0x2#4 := by
  refine BitVec.eq_of_getLsbD_eq fun i hi => ?_
  simp only [sampleWord, BitVec.getLsbD_extractLsb', BitVec.getLsbD_append]
  interval_cases i <;> simp

@[simp] theorem sampleWord_zero (s : BitVec 16) :
    (sampleWord s).extractLsb' 16 12 = 0#12 := by
  refine BitVec.eq_of_getLsbD_eq fun i hi => ?_
  simp only [sampleWord, BitVec.getLsbD_extractLsb', BitVec.getLsbD_append]
  interval_cases i <;> simp

@[simp] theorem sampleWord_sample (s : BitVec 16) :
    (sampleWord s).extractLsb' 0 16 = s := by
  refine BitVec.eq_of_getLsbD_eq fun i hi => ?_
  simp only [sampleWord, BitVec.getLsbD_extractLsb', BitVec.getLsbD_append]
  interval_cases i <;> simp

/-! ## INPUT -/

@[simp] theorem inputWord_tag (p : BitVec 1) (b : BitVec 3) (d : Bool) :
    (inputWord p b d).extractLsb' 28 4 = 0x3#4 := by
  refine BitVec.eq_of_getLsbD_eq fun i hi => ?_
  simp only [inputWord, BitVec.getLsbD_extractLsb', BitVec.getLsbD_append]
  interval_cases i <;> simp

@[simp] theorem inputWord_zero (p : BitVec 1) (b : BitVec 3) (d : Bool) :
    (inputWord p b d).extractLsb' 5 23 = 0#23 := by
  refine BitVec.eq_of_getLsbD_eq fun i hi => ?_
  simp only [inputWord, BitVec.getLsbD_extractLsb', BitVec.getLsbD_append]
  interval_cases i <;> simp

@[simp] theorem inputWord_port (p : BitVec 1) (b : BitVec 3) (d : Bool) :
    (inputWord p b d).extractLsb' 4 1 = p := by
  refine BitVec.eq_of_getLsbD_eq fun i hi => ?_
  simp only [inputWord, BitVec.getLsbD_extractLsb', BitVec.getLsbD_append]
  interval_cases i <;> simp

@[simp] theorem inputWord_button (p : BitVec 1) (b : BitVec 3) (d : Bool) :
    (inputWord p b d).extractLsb' 1 3 = b := by
  refine BitVec.eq_of_getLsbD_eq fun i hi => ?_
  simp only [inputWord, BitVec.getLsbD_extractLsb', BitVec.getLsbD_append]
  interval_cases i <;> simp

theorem inputWord_down (p : BitVec 1) (b : BitVec 3) (d : Bool) :
    (inputWord p b d).getLsbD 0 = d := by
  simp only [inputWord, BitVec.getLsbD_append]
  simp

/-! ## Pause words -/

@[simp] theorem pauseWord_chan (k : PauseKind) (a : Bool) (c : Byte) :
    (pauseWord k a c).extractLsb' 8 8 = c := by
  refine BitVec.eq_of_getLsbD_eq fun i hi => ?_
  simp only [pauseWord, BitVec.getLsbD_extractLsb', BitVec.getLsbD_append]
  interval_cases i <;> simp

@[simp] theorem pauseWord_zero (k : PauseKind) (a : Bool) (c : Byte) :
    (pauseWord k a c).extractLsb' 3 5 = 0#5 := by
  refine BitVec.eq_of_getLsbD_eq fun i hi => ?_
  simp only [pauseWord, BitVec.getLsbD_extractLsb', BitVec.getLsbD_append]
  interval_cases i <;> simp

theorem pauseWord_ack (k : PauseKind) (a : Bool) (c : Byte) :
    (pauseWord k a c).getLsbD 2 = a := by
  simp only [pauseWord, BitVec.getLsbD_append]
  simp

@[simp] theorem pauseWord_kind (k : PauseKind) (a : Bool) (c : Byte) :
    (pauseWord k a c).extractLsb' 0 2 = pauseKindBits k := by
  refine BitVec.eq_of_getLsbD_eq fun i hi => ?_
  simp only [pauseWord, BitVec.getLsbD_extractLsb', BitVec.getLsbD_append]
  interval_cases i <;> simp

/-! ## PAUSE -/

@[simp] theorem pauseEvWord_tag (k : PauseKind) (a : Bool) (c : Byte) :
    (pauseEvWord k a c).extractLsb' 28 4 = 0x4#4 := by
  refine BitVec.eq_of_getLsbD_eq fun i hi => ?_
  simp only [pauseEvWord, pauseWord, BitVec.getLsbD_extractLsb', BitVec.getLsbD_append]
  interval_cases i <;> simp

@[simp] theorem pauseEvWord_zeroHigh (k : PauseKind) (a : Bool) (c : Byte) :
    (pauseEvWord k a c).extractLsb' 16 12 = 0#12 := by
  refine BitVec.eq_of_getLsbD_eq fun i hi => ?_
  simp only [pauseEvWord, pauseWord, BitVec.getLsbD_extractLsb', BitVec.getLsbD_append]
  interval_cases i <;> simp

@[simp] theorem pauseEvWord_chan (k : PauseKind) (a : Bool) (c : Byte) :
    (pauseEvWord k a c).extractLsb' 8 8 = c := by
  refine BitVec.eq_of_getLsbD_eq fun i hi => ?_
  simp only [pauseEvWord, pauseWord, BitVec.getLsbD_extractLsb', BitVec.getLsbD_append]
  interval_cases i <;> simp

@[simp] theorem pauseEvWord_zeroLow (k : PauseKind) (a : Bool) (c : Byte) :
    (pauseEvWord k a c).extractLsb' 3 5 = 0#5 := by
  refine BitVec.eq_of_getLsbD_eq fun i hi => ?_
  simp only [pauseEvWord, pauseWord, BitVec.getLsbD_extractLsb', BitVec.getLsbD_append]
  interval_cases i <;> simp

theorem pauseEvWord_ack (k : PauseKind) (a : Bool) (c : Byte) :
    (pauseEvWord k a c).getLsbD 2 = a := by
  simp only [pauseEvWord, pauseWord, BitVec.getLsbD_append]
  simp

@[simp] theorem pauseEvWord_kind (k : PauseKind) (a : Bool) (c : Byte) :
    (pauseEvWord k a c).extractLsb' 0 2 = pauseKindBits k := by
  refine BitVec.eq_of_getLsbD_eq fun i hi => ?_
  simp only [pauseEvWord, pauseWord, BitVec.getLsbD_extractLsb', BitVec.getLsbD_append]
  interval_cases i <;> simp

/-! ## SETSTEP -/

@[simp] theorem setstepWord_tag (m : StepMode) :
    (setstepWord m).extractLsb' 28 4 = 0xA#4 := by
  refine BitVec.eq_of_getLsbD_eq fun i hi => ?_
  simp only [setstepWord, BitVec.getLsbD_extractLsb', BitVec.getLsbD_append]
  interval_cases i <;> simp

@[simp] theorem setstepWord_zero (m : StepMode) :
    (setstepWord m).extractLsb' 2 26 = 0#26 := by
  refine BitVec.eq_of_getLsbD_eq fun i hi => ?_
  simp only [setstepWord, BitVec.getLsbD_extractLsb', BitVec.getLsbD_append]
  interval_cases i <;> simp

@[simp] theorem setstepWord_mode (m : StepMode) :
    (setstepWord m).extractLsb' 0 2 = stepModeBits m := by
  refine BitVec.eq_of_getLsbD_eq fun i hi => ?_
  simp only [setstepWord, BitVec.getLsbD_extractLsb', BitVec.getLsbD_append]
  interval_cases i <;> simp

/-! ## CONFIG -/

@[simp] theorem configWord_op (r : Region) (h : Bool) :
    (configWord r h).extractLsb' 60 4 = 0x1#4 := by
  refine BitVec.eq_of_getLsbD_eq fun i hi => ?_
  simp only [configWord, BitVec.getLsbD_extractLsb', BitVec.getLsbD_append]
  interval_cases i <;> simp

@[simp] theorem configWord_zero (r : Region) (h : Bool) :
    (configWord r h).extractLsb' 2 58 = 0#58 := by
  refine BitVec.eq_of_getLsbD_eq fun i hi => ?_
  simp only [configWord, BitVec.getLsbD_extractLsb', BitVec.getLsbD_append]
  interval_cases i <;> simp

theorem configWord_slc (r : Region) (h : Bool) :
    (configWord r h).getLsbD 1 = h := by
  simp only [configWord, BitVec.getLsbD_append]
  simp

theorem configWord_region (r : Region) (h : Bool) :
    (configWord r h).getLsbD 0 = (regionBit r).getLsbD 0 := by
  simp only [configWord, BitVec.getLsbD_append]
  simp

/-! ## MAP_ADD -/

@[simp] theorem mapAddWord_op (sp : Space) (d : Byte) (lo hi : Addr) :
    (mapAddWord sp d lo hi).extractLsb' 60 4 = 0x2#4 := by
  refine BitVec.eq_of_getLsbD_eq fun i hi => ?_
  simp only [mapAddWord, BitVec.getLsbD_extractLsb', BitVec.getLsbD_append]
  interval_cases i <;> simp

@[simp] theorem mapAddWord_zeroHigh (sp : Space) (d : Byte) (lo hi : Addr) :
    (mapAddWord sp d lo hi).extractLsb' 57 3 = 0#3 := by
  refine BitVec.eq_of_getLsbD_eq fun i hi => ?_
  simp only [mapAddWord, BitVec.getLsbD_extractLsb', BitVec.getLsbD_append]
  interval_cases i <;> simp

theorem mapAddWord_space (sp : Space) (d : Byte) (lo hi : Addr) :
    (mapAddWord sp d lo hi).getLsbD 56 = (spaceBit sp).getLsbD 0 := by
  simp only [mapAddWord, BitVec.getLsbD_append]
  simp

@[simp] theorem mapAddWord_dev (sp : Space) (d : Byte) (lo hi : Addr) :
    (mapAddWord sp d lo hi).extractLsb' 48 8 = d := by
  refine BitVec.eq_of_getLsbD_eq fun i hi => ?_
  simp only [mapAddWord, BitVec.getLsbD_extractLsb', BitVec.getLsbD_append]
  interval_cases i <;> simp

@[simp] theorem mapAddWord_zeroLow (sp : Space) (d : Byte) (lo hi : Addr) :
    (mapAddWord sp d lo hi).extractLsb' 32 16 = 0#16 := by
  refine BitVec.eq_of_getLsbD_eq fun i hi => ?_
  simp only [mapAddWord, BitVec.getLsbD_extractLsb', BitVec.getLsbD_append]
  interval_cases i <;> simp

@[simp] theorem mapAddWord_lo (sp : Space) (d : Byte) (lo hi : Addr) :
    (mapAddWord sp d lo hi).extractLsb' 16 16 = lo := by
  refine BitVec.eq_of_getLsbD_eq fun i hi => ?_
  simp only [mapAddWord, BitVec.getLsbD_extractLsb', BitVec.getLsbD_append]
  interval_cases i <;> simp

@[simp] theorem mapAddWord_hi (sp : Space) (d : Byte) (lo hi : Addr) :
    (mapAddWord sp d lo hi).extractLsb' 0 16 = hi := by
  refine BitVec.eq_of_getLsbD_eq fun i hi => ?_
  simp only [mapAddWord, BitVec.getLsbD_extractLsb', BitVec.getLsbD_append]
  interval_cases i <;> simp

/-! ## CSR_READ -/

@[simp] theorem csrReadWord_op (n : BitVec 8) :
    (csrReadWord n).extractLsb' 60 4 = 0x5#4 := by
  refine BitVec.eq_of_getLsbD_eq fun i hi => ?_
  simp only [csrReadWord, BitVec.getLsbD_extractLsb', BitVec.getLsbD_append]
  interval_cases i <;> simp

@[simp] theorem csrReadWord_zero (n : BitVec 8) :
    (csrReadWord n).extractLsb' 8 52 = 0#52 := by
  refine BitVec.eq_of_getLsbD_eq fun i hi => ?_
  simp only [csrReadWord, BitVec.getLsbD_extractLsb', BitVec.getLsbD_append]
  interval_cases i <;> simp

@[simp] theorem csrReadWord_number (n : BitVec 8) :
    (csrReadWord n).extractLsb' 0 8 = n := by
  refine BitVec.eq_of_getLsbD_eq fun i hi => ?_
  simp only [csrReadWord, BitVec.getLsbD_extractLsb', BitVec.getLsbD_append]
  interval_cases i <;> simp

/-! ## BUS -/

theorem busWord_space (sp : Space) (we : Bool) (a : Addr) (v : Byte) :
    (busWord sp we a v).getLsbD 25 = (spaceBit sp).getLsbD 0 := by
  simp only [busWord, BitVec.getLsbD_append]
  simp

theorem busWord_we (sp : Space) (we : Bool) (a : Addr) (v : Byte) :
    (busWord sp we a v).getLsbD 24 = we := by
  simp only [busWord, BitVec.getLsbD_append]
  simp

@[simp] theorem busWord_addr (sp : Space) (we : Bool) (a : Addr) (v : Byte) :
    (busWord sp we a v).extractLsb' 8 16 = a := by
  refine BitVec.eq_of_getLsbD_eq fun i hi => ?_
  simp only [busWord, BitVec.getLsbD_extractLsb', BitVec.getLsbD_append]
  interval_cases i <;> simp

@[simp] theorem busWord_wdata (sp : Space) (we : Bool) (a : Addr) (v : Byte) :
    (busWord sp we a v).extractLsb' 0 8 = v := by
  refine BitVec.eq_of_getLsbD_eq fun i hi => ?_
  simp only [busWord, BitVec.getLsbD_extractLsb', BitVec.getLsbD_append]
  interval_cases i <;> simp

/-! ## FRAME -/

@[simp] theorem frameWord_tag (q : BitVec 28) : (0x1#4 ++ q : BitVec 32).extractLsb' 28 4 = 0x1#4 := by
  refine BitVec.eq_of_getLsbD_eq fun i hi => ?_
  simp only [BitVec.getLsbD_extractLsb', BitVec.getLsbD_append]
  interval_cases i <;> simp

@[simp] theorem frameWord_seq (q : BitVec 28) : (0x1#4 ++ q : BitVec 32).extractLsb' 0 28 = q := by
  refine BitVec.eq_of_getLsbD_eq fun i hi => ?_
  simp only [BitVec.getLsbD_extractLsb', BitVec.getLsbD_append]
  interval_cases i <;> simp

/-! ## Words rebuilt from their fields -/

theorem frameWord_rebuild (w : BitVec 32) (h : w.extractLsb' 28 4 = 0x1#4) :
    (0x1#4 ++ w.extractLsb' 0 28 : BitVec 32) = w := by
  rw [← h]
  refine BitVec.eq_of_getLsbD_eq fun i hi => ?_
  simp only [BitVec.getLsbD_append, BitVec.getLsbD_extractLsb']
  interval_cases i <;> simp

theorem sampleWord_rebuild (w : BitVec 32) (h : w.extractLsb' 28 4 = 0x2#4) (z : w.extractLsb' 16 12 = 0#12) :
    sampleWord (w.extractLsb' 0 16) = w := by
  rw [sampleWord, ← h, ← z]
  refine BitVec.eq_of_getLsbD_eq fun i hi => ?_
  simp only [BitVec.getLsbD_append, BitVec.getLsbD_extractLsb']
  interval_cases i <;> simp

theorem inputWord_rebuild (w : BitVec 32) (h : w.extractLsb' 28 4 = 0x3#4) (z : w.extractLsb' 5 23 = 0#23) :
    inputWord (w.extractLsb' 4 1) (w.extractLsb' 1 3) (w.getLsbD 0) = w := by
  rw [inputWord, ← h, ← z]
  refine BitVec.eq_of_getLsbD_eq fun i hi => ?_
  simp only [BitVec.getLsbD_append, BitVec.getLsbD_extractLsb']
  interval_cases i <;> simp

theorem pauseWord_rebuild {kind : PauseKind} (q : BitVec 16) (k : pauseKindOf (q.extractLsb' 0 2) = some kind) (z : q.extractLsb' 3 5 = 0#5) :
    pauseWord kind (q.getLsbD 2) (q.extractLsb' 8 8) = q := by
  rw [pauseWord, ← z, pauseKindBits_of k]
  refine BitVec.eq_of_getLsbD_eq fun i hi => ?_
  simp only [BitVec.getLsbD_append, BitVec.getLsbD_extractLsb']
  interval_cases i <;> simp

theorem pauseEvWord_rebuild {kind : PauseKind} (w : BitVec 32) (h : w.extractLsb' 28 4 = 0x4#4) (z : w.extractLsb' 16 12 = 0#12) (y : w.extractLsb' 3 5 = 0#5) (k : pauseKindOf (w.extractLsb' 0 2) = some kind) :
    pauseEvWord kind (w.getLsbD 2) (w.extractLsb' 8 8) = w := by
  rw [pauseEvWord, pauseWord, ← h, ← z, ← y, pauseKindBits_of k]
  refine BitVec.eq_of_getLsbD_eq fun i hi => ?_
  simp only [BitVec.getLsbD_append, BitVec.getLsbD_extractLsb']
  interval_cases i <;> simp

theorem setstepWord_rebuild (w : BitVec 32) (h : w.extractLsb' 28 4 = 0xA#4) (z : w.extractLsb' 2 26 = 0#26) :
    setstepWord (stepModeOf (w.extractLsb' 0 2)) = w := by
  rw [setstepWord, stepModeBits_of, ← h, ← z]
  refine BitVec.eq_of_getLsbD_eq fun i hi => ?_
  simp only [BitVec.getLsbD_append, BitVec.getLsbD_extractLsb']
  interval_cases i <;> simp

theorem configWord_rebuild (c : BitVec 64) (h : c.extractLsb' 60 4 = 0x1#4) (z : c.extractLsb' 2 58 = 0#58) :
    configWord (regionOf (c.getLsbD 0)) (c.getLsbD 1) = c := by
  rw [configWord, regionBit_of, ← h, ← z]
  refine BitVec.eq_of_getLsbD_eq fun i hi => ?_
  simp only [BitVec.getLsbD_append, BitVec.getLsbD_extractLsb']
  interval_cases i <;> simp

theorem mapAddWord_rebuild (c : BitVec 64) (h : c.extractLsb' 60 4 = 0x2#4) (z : c.extractLsb' 57 3 = 0#3) (y : c.extractLsb' 32 16 = 0#16) :
    mapAddWord (spaceOf (c.getLsbD 56)) (c.extractLsb' 48 8) (c.extractLsb' 16 16) (c.extractLsb' 0 16) = c := by
  rw [mapAddWord, spaceBit_of, ← h, ← z, ← y]
  refine BitVec.eq_of_getLsbD_eq fun i hi => ?_
  simp only [BitVec.getLsbD_append, BitVec.getLsbD_extractLsb']
  interval_cases i <;> simp

theorem csrReadWord_rebuild (c : BitVec 64) (h : c.extractLsb' 60 4 = 0x5#4) (z : c.extractLsb' 8 52 = 0#52) :
    csrReadWord (c.extractLsb' 0 8) = c := by
  rw [csrReadWord, ← h, ← z]
  refine BitVec.eq_of_getLsbD_eq fun i hi => ?_
  simp only [BitVec.getLsbD_append, BitVec.getLsbD_extractLsb']
  interval_cases i <;> simp

theorem busWord_rebuild (b : BitVec 26) (h : b.getLsbD 24 = we) :
    busWord (spaceOf (b.getLsbD 25)) we (b.extractLsb' 8 16) (b.extractLsb' 0 8) = b := by
  rw [busWord, spaceBit_of, ← h]
  refine BitVec.eq_of_getLsbD_eq fun i hi => ?_
  simp only [BitVec.getLsbD_append, BitVec.getLsbD_extractLsb']
  interval_cases i <;> simp

/-- A 32-bit word whose payload is zero is its tag. -/
theorem tagWord_rebuild (w : BitVec 32) (t : BitVec 4) (h : w.extractLsb' 28 4 = t) (z : w.extractLsb' 0 28 = 0#28) :
    (t ++ 0#28 : BitVec 32) = w := by
  rw [← h, ← z]
  refine BitVec.eq_of_getLsbD_eq fun i hi => ?_
  simp only [BitVec.getLsbD_append, BitVec.getLsbD_extractLsb']
  interval_cases i <;> simp

/-- A 64-bit word whose operands are zero is its op. -/
theorem opWord_rebuild (c : BitVec 64) (t : BitVec 4) (h : c.extractLsb' 60 4 = t) (z : c.extractLsb' 0 60 = 0#60) :
    (t ++ 0#60 : BitVec 64) = c := by
  rw [← h, ← z]
  refine BitVec.eq_of_getLsbD_eq fun i hi => ?_
  simp only [BitVec.getLsbD_append, BitVec.getLsbD_extractLsb']
  interval_cases i <;> simp

end Sys2Proof
end

