-- ==== Sys2Proof/Laws/PerInstr.lean ====
section
/-!
SUPPORT. The encoder against the opcode table, one lemma per constructor: the word of every instruction, whatever its operands,
has the fixed bits of its row of spec/opcode_table.json.
-/
namespace Sys2Proof.Laws.TableRow

/-- `word & mask = match` on the word's own interface. -/
def fits (mask mtch : Nat) : Words → Bool
  | .ev e => e.word &&& BitVec.ofNat 32 mask == BitVec.ofNat 32 mtch
  | .pq q => q &&& BitVec.ofNat 16 mask == BitVec.ofNat 16 mtch
  | .ctl c => c &&& BitVec.ofNat 64 mask == BitVec.ofNat 64 mtch
  | .bus b => b &&& BitVec.ofNat 26 mask == BitVec.ofNat 26 mtch
  | .sphase p => p &&& BitVec.ofNat 4 mask == BitVec.ofNat 4 mtch
  | .cphase p => p &&& BitVec.ofNat 3 mask == BitVec.ofNat 3 mtch

/-- The mask and the match of the instruction's row. -/
def row : Instr → Nat × Nat
  | .evFrame _ _ => (0xF0000000, 0x10000000)
  | .evSample _ => (0xFFFF0000, 0x20000000)
  | .evInput _ _ _ => (0xFFFFFFE0, 0x30000000)
  | .evPause _ _ _ => (0xFFFF00F8, 0x40000000)
  | .evSavestate => (0xFFFFFFFF, 0x50000000)
  | .evLoadstate _ => (0xFFFFFFFF, 0x60000000)
  | .evQuit => (0xFFFFFFFF, 0x70000000)
  | .evFramestep => (0xFFFFFFFF, 0x80000000)
  | .evShowfps => (0xFFFFFFFF, 0x90000000)
  | .evSetstep _ => (0xFFFFFFFC, 0xA0000000)
  | .pqToggle _ _ => (0x00FB, 0x0000)
  | .pqPause _ _ => (0x00FB, 0x0001)
  | .pqUnpause _ _ => (0x00FB, 0x0002)
  | .pqQuitsent => (0xFFFF, 0x0003)
  | .ctlConfig _ _ => (0xFFFFFFFFFFFFFFFC, 0x1000000000000000)
  | .ctlMapAdd _ _ _ _ => (0xFE00FFFF00000000, 0x2000000000000000)
  | .ctlReset => (0xFFFFFFFFFFFFFFFF, 0x3000000000000000)
  | .ctlStart => (0xFFFFFFFFFFFFFFFF, 0x4000000000000000)
  | .ctlCsrRead _ => (0xFFFFFFFFFFFFFF00, 0x5000000000000000)
  | .ctlSinkFatal => (0xFFFFFFFFFFFFFFFF, 0x6000000000000000)
  | .busRd _ _ _ => (0x1000000, 0x0000000)
  | .busWr _ _ _ => (0x1000000, 0x1000000)
  | .seqIdle => (0xF, 0x0)
  | .seqTop => (0xF, 0x1)
  | .seqPpu => (0xF, 0x2)
  | .seqDrain => (0xF, 0x3)
  | .seqPcheck => (0xF, 0x4)
  | .seqPwait => (0xF, 0x5)
  | .seqExitchk => (0xF, 0x6)
  | .seqHalt => (0xF, 0x7)
  | .seqCIdle => (0x7, 0x0)
  | .seqCFetch => (0x7, 0x1)
  | .seqCSaveAck => (0x7, 0x2)
  | .seqCLoadAck => (0x7, 0x3)
  | .seqCHalt => (0x7, 0x4)

/-- The word of the instruction fits its row. -/
def Statement (i : Instr) : Prop := fits (row i).1 (row i).2 (encode i) = true

theorem evFrame (seq : BitVec 28) (fb : Framebuffer) : Statement (.evFrame seq fb) := by
  refine beq_iff_eq.2 (BitVec.eq_of_getLsbD_eq fun i hi => ?_)
  simp only [row, frameEntry, BitVec.getLsbD_and, BitVec.getLsbD_append]
  interval_cases i <;> simp

theorem evSample (sample : BitVec 16) : Statement (.evSample sample) := by
  refine beq_iff_eq.2 (BitVec.eq_of_getLsbD_eq fun i hi => ?_)
  simp only [row, bareEntry, sampleWord, BitVec.getLsbD_and, BitVec.getLsbD_append]
  interval_cases i <;> simp

theorem evInput (port : BitVec 1) (button : BitVec 3) (down : Bool) : Statement (.evInput port button down) := by
  refine beq_iff_eq.2 (BitVec.eq_of_getLsbD_eq fun i hi => ?_)
  simp only [row, bareEntry, inputWord, BitVec.getLsbD_and, BitVec.getLsbD_append]
  interval_cases i <;> simp

theorem evPause (kind : PauseKind) (ack : Bool) (chan : Byte) : Statement (.evPause kind ack chan) := by
  refine beq_iff_eq.2 (BitVec.eq_of_getLsbD_eq fun i hi => ?_)
  cases kind <;> simp only [row, bareEntry, pauseEvWord, pauseWord, pauseKindBits, BitVec.getLsbD_and, BitVec.getLsbD_append] <;>
    interval_cases i <;> simp

theorem evSavestate : Statement (.evSavestate) := by
  unfold Statement
  decide

theorem evLoadstate (img : Image) : Statement (.evLoadstate img) := by
  show (0x60000000#32 &&& 0xFFFFFFFF#32 == 0x60000000#32) = true
  decide

theorem evQuit : Statement (.evQuit) := by
  unfold Statement
  decide

theorem evFramestep : Statement (.evFramestep) := by
  unfold Statement
  decide

theorem evShowfps : Statement (.evShowfps) := by
  unfold Statement
  decide

theorem evSetstep (mode : StepMode) : Statement (.evSetstep mode) := by
  refine beq_iff_eq.2 (BitVec.eq_of_getLsbD_eq fun i hi => ?_)
  simp only [row, bareEntry, setstepWord, BitVec.getLsbD_and, BitVec.getLsbD_append]
  interval_cases i <;> simp

theorem pqToggle (ack : Bool) (chan : Byte) : Statement (.pqToggle ack chan) := by
  refine beq_iff_eq.2 (BitVec.eq_of_getLsbD_eq fun i hi => ?_)
  simp only [row, pauseWord, pauseKindBits, BitVec.getLsbD_and, BitVec.getLsbD_append]
  interval_cases i <;> simp

theorem pqPause (ack : Bool) (chan : Byte) : Statement (.pqPause ack chan) := by
  refine beq_iff_eq.2 (BitVec.eq_of_getLsbD_eq fun i hi => ?_)
  simp only [row, pauseWord, pauseKindBits, BitVec.getLsbD_and, BitVec.getLsbD_append]
  interval_cases i <;> simp

theorem pqUnpause (ack : Bool) (chan : Byte) : Statement (.pqUnpause ack chan) := by
  refine beq_iff_eq.2 (BitVec.eq_of_getLsbD_eq fun i hi => ?_)
  simp only [row, pauseWord, pauseKindBits, BitVec.getLsbD_and, BitVec.getLsbD_append]
  interval_cases i <;> simp

theorem pqQuitsent : Statement (.pqQuitsent) := by
  unfold Statement
  decide

theorem ctlConfig (region : Region) (hasSlc : Bool) : Statement (.ctlConfig region hasSlc) := by
  refine beq_iff_eq.2 (BitVec.eq_of_getLsbD_eq fun i hi => ?_)
  simp only [row, configWord, BitVec.getLsbD_and, BitVec.getLsbD_append]
  interval_cases i <;> simp

theorem ctlMapAdd (space : Space) (dev : Byte) (lo hi : Addr) : Statement (.ctlMapAdd space dev lo hi) := by
  refine beq_iff_eq.2 (BitVec.eq_of_getLsbD_eq fun i hi => ?_)
  simp only [row, mapAddWord, BitVec.getLsbD_and, BitVec.getLsbD_append]
  interval_cases i <;> simp

theorem ctlReset : Statement (.ctlReset) := by
  unfold Statement
  decide

theorem ctlStart : Statement (.ctlStart) := by
  unfold Statement
  decide

theorem ctlCsrRead (n : BitVec 8) : Statement (.ctlCsrRead n) := by
  refine beq_iff_eq.2 (BitVec.eq_of_getLsbD_eq fun i hi => ?_)
  simp only [row, csrReadWord, BitVec.getLsbD_and, BitVec.getLsbD_append]
  interval_cases i <;> simp

theorem ctlSinkFatal : Statement (.ctlSinkFatal) := by
  unfold Statement
  decide

theorem busRd (space : Space) (addr : Addr) (wdata : Byte) : Statement (.busRd space addr wdata) := by
  refine beq_iff_eq.2 (BitVec.eq_of_getLsbD_eq fun i hi => ?_)
  simp only [row, busWord, BitVec.getLsbD_and, BitVec.getLsbD_append]
  interval_cases i <;> simp

theorem busWr (space : Space) (addr : Addr) (wdata : Byte) : Statement (.busWr space addr wdata) := by
  refine beq_iff_eq.2 (BitVec.eq_of_getLsbD_eq fun i hi => ?_)
  simp only [row, busWord, BitVec.getLsbD_and, BitVec.getLsbD_append]
  interval_cases i <;> simp

theorem seqIdle : Statement (.seqIdle) := by
  unfold Statement
  decide

theorem seqTop : Statement (.seqTop) := by
  unfold Statement
  decide

theorem seqPpu : Statement (.seqPpu) := by
  unfold Statement
  decide

theorem seqDrain : Statement (.seqDrain) := by
  unfold Statement
  decide

theorem seqPcheck : Statement (.seqPcheck) := by
  unfold Statement
  decide

theorem seqPwait : Statement (.seqPwait) := by
  unfold Statement
  decide

theorem seqExitchk : Statement (.seqExitchk) := by
  unfold Statement
  decide

theorem seqHalt : Statement (.seqHalt) := by
  unfold Statement
  decide

theorem seqCIdle : Statement (.seqCIdle) := by
  unfold Statement
  decide

theorem seqCFetch : Statement (.seqCFetch) := by
  unfold Statement
  decide

theorem seqCSaveAck : Statement (.seqCSaveAck) := by
  unfold Statement
  decide

theorem seqCLoadAck : Statement (.seqCLoadAck) := by
  unfold Statement
  decide

theorem seqCHalt : Statement (.seqCHalt) := by
  unfold Statement
  decide

end Sys2Proof.Laws.TableRow
end

