-- ==== Sys2Proof/Machine/Asm.lean ====
section
/-!
DEFINITION. The textual syntax of 30_encoding R115: the statement of each instruction that has one, numbers in decimal. The
sequencer states have no statement.
-/
namespace Sys2Proof.Machine

/-- A number. -/
def asmNat {n : Nat} (v : BitVec n) : String := toString v.toNat

/-- A button (10_state R37). -/
def asmButton (b : BitVec 3) : String :=
  match b with
  | 0#3 => "A"
  | 1#3 => "B"
  | 2#3 => "SELECT"
  | 3#3 => "START"
  | 4#3 => "UP"
  | 5#3 => "DOWN"
  | 6#3 => "LEFT"
  | 7#3 => "RIGHT"

/-- A space. -/
def asmSpace : Space → String
  | .cpu => "cpu"
  | .ppu => "ppu"

/-- The optional acknowledgement of a pause request, after `sep`. -/
def asmAck (sep : String) (ack : Bool) (chan : Byte) : String := if ack then sep ++ "ack=" ++ asmNat chan else ""

/-- The statement of an instruction (R115). An image is written by its name, which the word does not hold. -/
def asm : Instr → Option String
  | .evFrame seq _ => some ("ev.frame " ++ asmNat seq)
  | .evSample s => some ("ev.sample " ++ toString s.toInt)
  | .evInput port button down =>
    some ("ev.input " ++ asmNat port ++ ", " ++ asmButton button ++ ", " ++ if down then "down" else "up")
  | .evPause kind ack chan =>
    some ("ev.pause " ++ (match kind with
      | .toggle => "toggle"
      | .pause => "pause"
      | .unpause => "unpause") ++ asmAck ", " ack chan)
  | .evSavestate => some "ev.savestate"
  | .evLoadstate _ => some "ev.loadstate image"
  | .evQuit => some "ev.quit"
  | .evFramestep => some "ev.framestep"
  | .evShowfps => some "ev.showfps"
  | .evSetstep mode =>
    some ("ev.setstep " ++ match mode with
      | .noStep => "nostep"
      | .cycleStep => "cycle"
      | .scanlineStep => "scanline"
      | .frameStep => "frame")
  | .pqToggle ack chan => some ("pq.toggle" ++ asmAck " " ack chan)
  | .pqPause ack chan => some ("pq.pause" ++ asmAck " " ack chan)
  | .pqUnpause ack chan => some ("pq.unpause" ++ asmAck " " ack chan)
  | .pqQuitsent => some "pq.quit"
  | .ctlConfig region hasSlc =>
    some ("ctl.config " ++ (match region with
      | .ntsc => "ntsc"
      | .pal => "pal") ++ if hasSlc then ", slc" else "")
  | .ctlMapAdd sp dev lo hi =>
    some ("ctl.map " ++ asmSpace sp ++ ", " ++ asmNat dev ++ ", " ++ asmNat lo ++ ", " ++ asmNat hi)
  | .ctlReset => some "ctl.reset"
  | .ctlStart => some "ctl.start"
  | .ctlCsrRead n => some ("ctl.csr " ++ asmNat n)
  | .ctlSinkFatal => some "ctl.sinkfatal"
  | .busRd sp addr _ => some ("bus.rd " ++ asmSpace sp ++ ", " ++ asmNat addr)
  | .busWr sp addr wdata => some ("bus.wr " ++ asmSpace sp ++ ", " ++ asmNat addr ++ ", " ++ asmNat wdata)
  | .seqIdle | .seqTop | .seqPpu | .seqDrain | .seqPcheck | .seqPwait | .seqExitchk | .seqHalt | .seqCIdle | .seqCFetch
  | .seqCSaveAck | .seqCLoadAck | .seqCHalt => none

end Sys2Proof.Machine
end

