-- ==== Sys2Proof/Tests/Slice0.lean ====
section
/-!
SUPPORT. Own tests: the decoder on words written out from 30_encoding, the refusals of WellFormed, single steps on a small
state with the expected results of 95_test_vectors (the vector is named at each test), and a witness for the hypotheses of
every obligation that has any.
-/
namespace Sys2Proof.Tests
open Sys2Proof.Machine

/-! ## States -/

def cpu0 : CpuState := ⟨0, 0, 0, 0, 0, 0, 0, [], []⟩
def ppu0 : PpuState := ⟨[], [], [], 0, 0, 0, []⟩
def mapper0 : MapperState := ⟨[], []⟩
def fb0 : Framebuffer := ⟨[[7]]⟩

/-- A block as it stands before START, with no opaque value in it: a platform of three devices and 1x1 frames. -/
def idle : State where
  running := false
  started := false
  stepMode := .noStep
  quota := 0
  region := .ntsc
  hasSlc := false
  paused := false
  sphase := 0
  pwaitRet := false
  drainPending := 0
  cpuCyc := 0
  ppuCyc := 0
  frameSeq := 0
  fault := .none
  nmiLatch := false
  nmiPrev := false
  mapCpu := []
  mapPpu := []
  openBusCpu := 0x55
  openBusPpu := 0xAA
  ctrl0 := 0
  ctrl1 := 0
  evq := []
  pq := []
  cphase := 0
  curEv := none
  ackValid := false
  ackVal := false
  showFps := false
  evIllegal := false
  hostRefused := false
  consFail := false
  ctlStatus := .ok
  snapStatus := .none
  cpu := cpu0
  ppu := ppu0
  mapper := mapper0
  dev := []
  out := []
  ctlRdata := 0
  busRdata := 0
  busReq := none
  hostPort := []
  turn := .host
  tick := 0
  plat := ⟨none, none, [(1, .plain), (2, .plain), (3, .controller)], 1, 1⟩

/-- The block right after START. -/
def live : State := { idle with running := true, started := true, sphase := 0x1, cphase := 0b001 }

/-- The consumer in a handshake that was acknowledged, the scheduler paused by it. -/
def acked (phase : BitVec 3) (img : Option Image) : State :=
  { live with
    paused := true, sphase := 0x5, cphase := phase, ackValid := true, ackVal := true
    curEv := some ⟨if phase = 0b010 then 0x50000000 else 0x60000000, none, img⟩ }

/-- The state an answer leaves; the state before where there is none. -/
def after (a : Answer) (s : State) : State :=
  match a with
  | .next t => t
  | .fault _ => s
  | .refused _ => s

/-- One consumer step on `w` at the head of EVQ. -/
def consume (w : BitVec 32) (s : State := live) : State := after (exec .seqCFetch { s with evq := [⟨w, none, none⟩] }) s

/-- One host command word. -/
def command (c : BitVec 64) (s : State := idle) : State :=
  after (step { s with turn := .host, busReq := none, hostPort := [.ctl c] }) s

/-! ## The decoder on words written out from 30_encoding -/

/-- EV (R103): tag in bits 31-28, fields as its table places them. -/
theorem test_decode_ev :
    decodeEv ⟨0b0001_0000000000000000000000000100, some fb0, none⟩ = .instr (.evFrame 4 fb0) ∧
    decodeEv ⟨0b0010_000000000000_1111111111111110, none, none⟩ = .instr (.evSample 0xFFFE) ∧
    decodeEv ⟨0b0011_00000000000000000000000_1_011_1, none, none⟩ = .instr (.evInput 1 3 true) ∧
    decodeEv ⟨0b0100_000000000000_00000101_00000_1_10, none, none⟩ = .instr (.evPause .unpause true 5) ∧
    decodeEv ⟨0b0101_0000000000000000000000000000, none, none⟩ = .instr .evSavestate ∧
    decodeEv ⟨0b0110_0000000000000000000000000000, none, some .ioError⟩ = .instr (.evLoadstate .ioError) ∧
    decodeEv ⟨0b0111_0000000000000000000000000000, none, none⟩ = .instr .evQuit ∧
    decodeEv ⟨0b1000_0000000000000000000000000000, none, none⟩ = .instr .evFramestep ∧
    decodeEv ⟨0b1001_0000000000000000000000000000, none, none⟩ = .instr .evShowfps ∧
    decodeEv ⟨0b1010_00000000000000000000000000_10, none, none⟩ = .instr (.evSetstep .scanlineStep) := by decide

/-- Illegal event words (95_test_vectors EV2, EV5, EV10, EV16-EV19, EV21, EV23, EV24, EV32-EV35). -/
theorem test_decode_ev_illegal :
    decodeEv ⟨0x10000004, none, none⟩ = .reject .sideData ∧ decodeEv ⟨0x20010000, none, none⟩ = .reject .reservedBits ∧
    decodeEv ⟨0x30000020, none, none⟩ = .reject .reservedBits ∧ decodeEv ⟨0x40000003, none, none⟩ = .reject .pauseKind ∧
    decodeEv ⟨0x40000005, none, none⟩ = .reject .ackChan ∧ decodeEv ⟨0x40000100, none, none⟩ = .reject .ackChan ∧
    decodeEv ⟨0x40000008, none, none⟩ = .reject .reservedBits ∧
    decodeEv ⟨0x50000001, none, none⟩ = .reject .reservedBits ∧ decodeEv ⟨0x60000000, none, none⟩ = .reject .sideData ∧
    decodeEv ⟨0x30000017, none, some .ioError⟩ = .reject .sideData ∧
    decodeEv ⟨0xA0000004, none, none⟩ = .reject .reservedBits ∧ decodeEv ⟨0x00000000, none, none⟩ = .reject .reservedOp ∧
    decodeEv ⟨0xB0000000, none, none⟩ = .reject .reservedOp ∧
    decodeEv ⟨0xF0000000, none, none⟩ = .reject .reservedOp := by decide

/-- PQ (R105): chan in bits 15-8, ack in bit 2, kind in bits 1-0. -/
theorem test_decode_pq :
    decodePq 0b00000101_00000_1_00 = .instr (.pqToggle true 5) ∧ decodePq 0b00000000_00000_1_01 = .instr (.pqPause true 0) ∧
    decodePq 0b00000101_00000_1_10 = .instr (.pqUnpause true 5) ∧ decodePq 0b00000000_00000_0_11 = .instr .pqQuitsent ∧
    decodePq 0b00000000_00001_0_00 = .reject .reservedBits ∧ decodePq 0b00000001_00000_0_11 = .reject .reservedBits := by
  decide

/-- CTL (R107), in the words of 95_test_vectors CT3, CT8, CT10, CT18, CT20, CT26, CT32. -/
theorem test_decode_ctl :
    decodeCtl 0x1000000000000003 = .instr (.ctlConfig .pal true) ∧
    decodeCtl 0x1000000000000001 = .instr (.ctlConfig .pal false) ∧
    decodeCtl 0x2003000040164017 = .instr (.ctlMapAdd .cpu 3 0x4016 0x4017) ∧
    decodeCtl 0x2101000020003FFF = .instr (.ctlMapAdd .ppu 1 0x2000 0x3FFF) ∧
    decodeCtl 0x3000000000000000 = .instr .ctlReset ∧ decodeCtl 0x4000000000000000 = .instr .ctlStart ∧
    decodeCtl 0x5000000000000016 = .instr (.ctlCsrRead 0x16) ∧
    decodeCtl 0x6000000000000000 = .instr .ctlSinkFatal := by decide

/-- Illegal control words (CT5, CT13, CT14, CT19, CT30, CT35-CT37). -/
theorem test_decode_ctl_illegal :
    decodeCtl 0x1000000000000004 = .reject .reservedBits ∧ decodeCtl 0x2201000020003FFF = .reject .reservedBits ∧
    decodeCtl 0x2001000120003FFF = .reject .reservedBits ∧ decodeCtl 0x3000000000000001 = .reject .reservedBits ∧
    decodeCtl 0x5000000000000100 = .reject .reservedBits ∧ decodeCtl 0x0000000000000000 = .reject .reservedOp ∧
    decodeCtl 0x7000000000000000 = .reject .reservedOp ∧ decodeCtl 0xF000000000000000 = .reject .reservedOp := by decide

/-- BUS (R110): space in bit 25, we in bit 24, addr in bits 23-8, wdata in bits 7-0 (B2, B4, B9, B10). -/
theorem test_decode_bus :
    decodeBus 0x0200200 = .busRd .cpu 0x2002 0 ∧ decodeBus 0x1200080 = .busWr .cpu 0x2000 0x80 ∧
    decodeBus 0x2200000 = .busRd .ppu 0x2000 0 ∧ decodeBus 0x3100011 = .busWr .ppu 0x1000 0x11 := by decide

/-- SEQ (R111, R112): every code of both sequencers, the reserved ones refused. -/
theorem test_decode_seq :
    ((List.range 8).map fun n => decodeSphase (BitVec.ofNat 4 n)) =
      [.instr .seqIdle, .instr .seqTop, .instr .seqPpu, .instr .seqDrain, .instr .seqPcheck, .instr .seqPwait,
        .instr .seqExitchk, .instr .seqHalt] ∧
    ((List.range 5).map fun n => decodeCphase (BitVec.ofNat 3 n)) =
      [.instr .seqCIdle, .instr .seqCFetch, .instr .seqCSaveAck, .instr .seqCLoadAck, .instr .seqCHalt] ∧
    (decodeSphase 0x8).instr? = none ∧ (decodeSphase 0xF).instr? = none ∧ (decodeCphase 0b101).instr? = none ∧
    (decodeCphase 0b111).instr? = none := by decide

/-- The table's words, by width (log 1). -/
theorem test_decode_table :
    decodeTableWord 32 0x30000017 = some (.evInput 1 3 true) ∧ decodeTableWord 16 0x0005 = some (.pqPause true 0) ∧
    decodeTableWord 64 0x4000000000000000 = some .ctlStart ∧ decodeTableWord 32 0x1200080 = some (.busWr .cpu 0x2000 0x80) ∧
    decodeTableWord 8 0x2 = some .seqPpu ∧ decodeTableWord 3 0x2 = some .seqCSaveAck := by decide

/-- The encoder writes the words of R117. -/
theorem test_encode :
    encode (.evInput 1 3 true) = .ev (bareEntry 0x30000017) ∧ encode (.pqPause true 0) = .pq 0x0005 ∧
    encode (.ctlMapAdd .cpu 3 0x4016 0x4017) = .ctl 0x2003000040164017 ∧
    encode (.busWr .cpu 0x2000 0x80) = .bus 0x1200080 := by decide

/-- The statements and the pseudo-instructions of R116, R117. -/
theorem test_asm : asm (.evInput 1 3 true) = some "ev.input 1, START, down" ∧
    asm (.evPause .unpause true 5) = some "ev.pause unpause, ack=5" ∧ asm (.pqPause true 0) = some "pq.pause ack=0" ∧
    asm (.ctlConfig .pal true) = some "ctl.config pal, slc" := by decide
theorem test_pseudo : evPress 1 3 = 0x30000017 ∧ evRelease 1 3 = 0x30000016 ∧ evStep .cycleStep = [0xA0000001, 0x40000002] ∧
    ctlConstruct .pal true [(.cpu, ⟨0x4016, 0x4017, 3⟩)] = [0x1000000000000003, 0x2003000040164017] ∧
    ctlRun = 0x4000000000000000 ∧ ctlTeardown = 0x70000000 := by decide

/-! ## WellFormed refuses what no legal word stands for -/

theorem test_wellFormed_pause_ack_on_mailbox : Instr.wellFormed (.evPause .pause true 0) = false := by decide
theorem test_wellFormed_pause_channel_without_ack : Instr.wellFormed (.evPause .toggle false 5) = false := by decide
theorem test_wellFormed_pause : Instr.wellFormed (.evPause .unpause true 5) = true := by decide

/-! ## Events: one consumer step -/

/-- EV1. -/
theorem test_frame : (after (exec .seqCFetch { live with evq := [⟨0x10000004, some fb0, none⟩] }) live).out =
    [.videoFrame 4 fb0 false] := by decide
/-- EV27, its second word. -/
theorem test_frame_fps : (after (exec (.evFrame 0 fb0) { live with showFps := true }) live).out = [.videoFrame 0 fb0 true] := by
  decide
/-- EV3. -/
theorem test_sample : (consume 0x2000FFFE).out = [.audioSample (-2)] := by decide
/-- EV4: no clipping. -/
theorem test_sample_lowest : (consume 0x20008000).out = [.audioSample (-32768)] := by decide
/-- EV6, EV8. -/
theorem test_input_down : (consume 0x30000017).ctrl1 = 0x08 ∧ (consume 0x3000000F).ctrl0 = 0x80 := by decide
/-- EV7. -/
theorem test_input_up : (consume 0x30000016 { live with ctrl1 := 0x08 }).ctrl1 = 0x00 := by decide
/-- EV14. -/
theorem test_pause_event : (consume 0x40000506).pq = [0x0506] := by decide
/-- EV16: no forged sentinel. -/
theorem test_pause_event_kind : (consume 0x40000003).pq = [] ∧ (consume 0x40000003).evIllegal = true := by decide
/-- EV20. -/
theorem test_savestate : (consume 0x50000000).pq = [0x0005] ∧ (consume 0x50000000).cphase = 0b010 ∧
    (consume 0x50000000).curEv = some ⟨0x50000000, none, none⟩ := by decide
/-- EV22. -/
theorem test_loadstate :
    (after (exec .seqCFetch { live with evq := [⟨0x60000000, none, some .ioError⟩] }) live).cphase = 0b011 := by decide
/-- EV25. -/
theorem test_quit : (consume 0x70000000).running = false ∧ (consume 0x70000000).pq = [0x0003] := by decide
/-- EV26. -/
theorem test_framestep : (consume 0x80000000).stepMode = .frameStep := by decide
/-- EV27, EV28. -/
theorem test_showfps : (consume 0x90000000).showFps = true ∧ (consume 0x90000000 (consume 0x90000000)).showFps = false := by
  decide
/-- EV29, EV31. -/
theorem test_setstep : (consume 0xA0000001).stepMode = .cycleStep ∧
    (consume 0xA0000000 { live with paused := true, stepMode := .cycleStep }).stepMode = .noStep ∧
    (consume 0xA0000000 { live with paused := true, stepMode := .cycleStep }).paused = true := by decide
/-- EV34, EV36. -/
theorem test_fetch : (consume 0xB0000000).evIllegal = true ∧ (consume 0xB0000000).evq = [] ∧
    (consume 0x70000000 { live with running := false }).cphase = 0b100 := by decide
/-- EV37: no step. -/
theorem test_fetch_empty : exec .seqCFetch live = .next live := rfl

/-! ## The host's event port -/

/-- One push on the event port. -/
def pushed (w : BitVec 32) (s : State := live) : State := after (step { s with turn := .host, hostPort := [.push w none] }) s

/-- HP1, HP3. -/
theorem test_host_push : (pushed 0x20000005).hostRefused = true ∧ (pushed 0x20000005).evq = [] ∧
    (pushed 0xB0000000).evq = [⟨0xB0000000, none, none⟩] := by decide
/-- The block with no room on EVQ. -/
def noRoom : State := { live with plat := { live.plat with evqDepth := some 0 } }
/-- HP5: a full queue takes nothing, neither a waiting push nor a new one. -/
theorem test_host_push_full : takeCmd noRoom.evqRoom [.push 0x30000017 none] = none ∧
    fetchCmd (.push 0x30000017 none) noRoom = .done { noRoom with hostPort := [.push 0x30000017 none] } := ⟨rfl, rfl⟩
/-- 70_reset_and_hazards R339: in a deadlock the host still reads CSRs, though a push of its waits for room. -/
theorem test_csr_past_blocked_push :
    let s := after (step { noRoom with
      cphase := 0b010, sphase := 0x3, drainPending := 1
      hostPort := [.push 0x30000017 none, .ctl 0x5000000000000002] }) live
    s.ctlRdata = 3 ∧ s.hostPort = [.push 0x30000017 none] := by decide

/-! ## Pause words: one scheduler step -/

/-- One PCHECK step on the words of PQ. -/
def checked (pq : List (BitVec 16)) (s : State := live) : State := after (exec .seqPcheck { s with pq := pq }) s
/-- One PWAIT step of a paused scheduler. -/
def waited (pq : List (BitVec 16)) (ret : Bool) (s : State := live) : State :=
  after (exec .seqPwait { s with pq := pq, paused := true, sphase := 0x5, pwaitRet := ret }) s

/-- PQ2, PQ9. -/
theorem test_toggle : (checked [0x0000]).paused = true ∧ (checked [0x0000]).sphase = 0x5 ∧
    (waited [0x0004] false).paused = false ∧ (waited [0x0004] false).ackVal = true := by decide
/-- PQ1, PQ7, PQ8. -/
theorem test_pause : (checked [0x0001]).paused = true ∧ (checked [0x0005]).ackVal = true ∧
    (waited [0x0005] false).ackValid = true ∧ (waited [0x0005] false).ackVal = false := by decide
/-- PQ4, PQ5, PQ6. -/
theorem test_unpause : (checked [0x0506]).out = [.ack 5 false] ∧ (checked [0x0506]).sphase = 0x6 ∧
    (waited [0x0002] false).sphase = 0x6 ∧ (waited [0x0506] true).out = [.ack 5 true] ∧
    (waited [0x0506] true).sphase = 0x2 := by decide
/-- PQ11, PQ12, PQ13. -/
theorem test_quitsent : (waited [0x0003] false { live with running := false }).sphase = 0x7 ∧
    (waited [] false { live with running := false }).sphase = 0x7 ∧
    (checked [0x0003] { live with running := false }).paused = false := by decide
/-- PQ14, PQ16. -/
theorem test_pcheck : (checked []).sphase = 0x6 ∧ (checked [0x0001, 0x0002]).paused = true ∧
    (checked [0x0001, 0x0002]).pq = [0x0002] := by decide
/-- PQ10, PQ15. -/
theorem test_pwait : (waited [0x0001] false).sphase = 0x5 ∧
    exec .seqPwait (waited [0x0001] false) = .next (waited [0x0001] false) := ⟨by decide, rfl⟩
/-- Toggle parity (43_pause R207): T, P, T, T and U, T, T, T. -/
theorem test_parity :
    (after (execAll [.pqToggle false 0, .pqPause false 0, .pqToggle false 0, .pqToggle false 0] live) live).paused = true ∧
    (after (execAll [.pqUnpause false 0, .pqToggle false 0, .pqToggle false 0, .pqToggle false 0] live) live).paused = true := by
  decide

/-! ## Control words: one host step -/

/-- The RATIO register (CT1-CT4). -/
theorem test_config : (command 0x1000000000000003).csr 0x07 = some 0x00031005 ∧
    (command 0x1000000000000002).csr 0x07 = some 0x00020F05 := by decide
/-- CT5, CT23. -/
theorem test_config_refused : (command 0x1000000000000004).ctlStatus = .illegal ∧
    (command 0x1000000000000001 live).ctlStatus = .busy ∧ (command 0x1000000000000001 live).region = .ntsc := by decide

/-- The block after CT6. -/
def mapped : State := command 0x2001000020003FFF

/-- CT6, CT8, CT9. -/
theorem test_map : mapped.csr 0x20 = some 0x8000000120003FFF ∧ (command 0x2003000040164017 mapped).mapCpu.length = 2 ∧
    (command 0x2002000040004015 mapped).ctlStatus = .ok := by decide
/-- CT7, CT11, CT12. -/
theorem test_map_refused : (command 0x200300003FFF4017 mapped).ctlStatus = .mapConflict ∧
    (command 0x200300003FFF4017 mapped).consFail = true ∧ (command 0x2102000030002000).ctlStatus = .mapRange ∧
    (command 0x20000000000000FF).ctlStatus = .illegal ∧ (command 0x20000000000000FF).consFail = false := by decide
/-- RS1. -/
theorem test_reset :
    let s := command 0x3000000000000000 { idle with quota := 3, ctrl0 := 0x09, stepMode := .cycleStep, nmiPrev := true }
    s.quota = 0 ∧ s.ctrl0 = 0 ∧ s.stepMode = .cycleStep ∧ s.openBusCpu = 0x55 ∧ s.nmiPrev = false := by decide
/-- CT22. -/
theorem test_reset_busy : (command 0x3000000000000000 live).ctlStatus = .busy := by decide
/-- CT20. -/
theorem test_start : (command 0x4000000000000000).csr 0x01 = some 0b11 ∧ (command 0x4000000000000000).sphase = 0x1 ∧
    (command 0x4000000000000000).cphase = 0b001 := by decide
/-- CT21, CT25. -/
theorem test_start_refused : (command 0x4000000000000000 live).ctlStatus = .busy ∧
    (command 0x4000000000000000 { idle with consFail := true }).ctlStatus = .notRunnable ∧
    (command 0x4000000000000000 { idle with consFail := true }).sphase = 0x0 := by decide
/-- CT26, CT31. -/
theorem test_csr : (command 0x5000000000000000).ctlRdata = 0x4E545337 ∧
    (command 0x500000000000000E { idle with consFail := true, ctlStatus := .notRunnable }).ctlRdata = 0x218 := by decide
/-- CT28, CT29. -/
theorem test_csr_reserved : (command 0x5000000000000016 { idle with ctlRdata := 9 }).ctlRdata = 0 ∧
    (command 0x5000000000000016).ctlStatus = .illegal ∧ (command 0x50000000000000FF).ctlStatus = .illegal := by decide
/-- CT33. -/
theorem test_sink : (command 0x6000000000000000 live).fault = .sinkFailure ∧
    (command 0x6000000000000000 live).running = false ∧
    (command 0x6000000000000000 live).out = [.fatal .sinkFailure] := by decide
/-- CT32, CT34. -/
theorem test_sink_busy : (command 0x6000000000000000).ctlStatus = .busy ∧
    (command 0x6000000000000000 (command 0x6000000000000000 live)).fault = .sinkFailure := by decide

/-! ## The bus -/

/-- B1, B9: each space's own latch. -/
theorem test_bus_read : (after (exec (.busRd .cpu 0x6000 0) idle) idle).busRdata = 0x55 ∧
    (after (exec (.busRd .ppu 0x2000 0) idle) idle).busRdata = 0xAA := by decide
/-- B5, B6. -/
theorem test_bus_write : (after (exec (.busWr .cpu 0x5000 0x3C) idle) idle).openBusCpu = 0x3C ∧
    (after (exec (.busRd .cpu 0x5000 0) (after (exec (.busWr .cpu 0x5000 0x3C) idle) idle)) idle).busRdata = 0x3C := by
  decide
/-- B4, B7, B8: both ends of a range are inside, the address after it is not. -/
theorem test_bus_range : mapped.lookup .cpu 0x2000 = some 1 ∧ mapped.lookup .cpu 0x3FFF = some 1 ∧
    mapped.lookup .cpu 0x4000 = none ∧ mapped.lookup .ppu 0x2000 = none ∧
    (memWrite .cpu 0x2000 0x80 mapped).openBusCpu = 0x80 := by decide

/-! ## The scheduler -/

/-- Q8: the largest step, PAL. -/
theorem test_top_quota :
    (cpuReturned ⟨65535, false, none, cpu0⟩ { live with region := .pal, quota := 4 }).quota = 1048564 ∧
    (cpuReturned ⟨7, false, none, cpu0⟩ live).quota = 105 ∧ (cpuReturned ⟨7, false, none, cpu0⟩ live).drainPending = 7 := by
  decide
/-- SQ2, N6. -/
theorem test_top_error :
    let s := cpuReturned ⟨3, true, some .unsupportedOpcode, cpu0⟩ { live with nmiLatch := true }
    s.fault = .unsupportedOpcode ∧ s.running = false ∧ s.out = [.fatal .unsupportedOpcode] ∧ s.sphase = 0x7 ∧
      s.cpuCyc = 0 ∧ s.nmiLatch = true := by decide
/-- SQ4, SQ12. -/
theorem test_top_moves : (after (exec .seqTop { live with running := false }) live).sphase = 0x7 ∧
    (after (exec .seqTop { live with quota := 12 }) live).sphase = 0x2 ∧
    (after (exec .seqTop { live with drainPending := 2 }) live).sphase = 0x3 := by decide
/-- SQ7: the frame count wraps, and FrameStep pauses. -/
theorem test_ppu_frame :
    let s := ppuReturned 0 ⟨some fun _ _ => 7, false, ppu0⟩
      { live with sphase := 0x2, quota := 5, frameSeq := 0x0FFFFFFF, stepMode := .frameStep }
    s.evq = [⟨0x1FFFFFFF, some fb0, none⟩] ∧ s.frameSeq = 0 ∧ s.paused = true ∧ s.pwaitRet = true ∧ s.sphase = 0x5 := by
  decide
/-- SQ5, N1, N4: no scanline change and then one; the NMI level is latched on its edge only. -/
theorem test_ppu_cycle :
    let s := { live with sphase := 0x2, quota := 10, stepMode := .scanlineStep, ppu := { ppu0 with scanline := 10 } }
    let t := ppuReturned 10 ⟨none, true, { ppu0 with scanline := 10 }⟩ s
    let u := ppuReturned 10 ⟨none, true, { ppu0 with scanline := 11 }⟩ { t with nmiLatch := false }
    t.paused = false ∧ t.quota = 5 ∧ t.nmiLatch = true ∧ u.paused = true ∧ u.nmiLatch = false ∧ u.quota = 0 := by decide
/-- SQ11. -/
theorem test_ppu_full :
    (after (exec .seqPpu { live with sphase := 0x2, quota := 5, plat := { live.plat with evqDepth := some 0 } }) live).quota = 5 ∧
    (after (exec .seqPpu { live with sphase := 0x2, plat := { live.plat with evqDepth := some 0 } }) live).sphase = 0x3 := by
  decide
/-- SQ10. -/
theorem test_drain : (sampleReturned ⟨5, true, cpu0⟩ { live with drainPending := 3 }).evq = [⟨0x20000005, none, none⟩] ∧
    (sampleReturned ⟨0xFFFF, true, cpu0⟩ { live with drainPending := 1 }).evq = [⟨0x2000FFFF, none, none⟩] ∧
    (sampleReturned ⟨5, false, cpu0⟩ { live with drainPending := 2 }).drainPending = 1 := by decide
/-- SQ10, its last step. -/
theorem test_drain_done : (after (exec .seqDrain live) live).sphase = 0x4 := by decide
/-- 42_scheduler R177. -/
theorem test_exitchk : (after (exec .seqExitchk live) live).sphase = 0x1 ∧
    (after (exec .seqExitchk { live with running := false }) live).sphase = 0x7 := by decide
/-- No step in IDLE, HALT, C_IDLE, C_HALT (42_scheduler R171, R178, 44_events R221, R236). -/
theorem test_no_step : exec .seqIdle idle = .next idle ∧ exec .seqHalt live = .next live ∧ exec .seqCIdle idle = .next idle ∧
    exec .seqCHalt live = .next live := ⟨rfl, rfl, rfl, rfl⟩

/-! ## Snapshots -/

def rec0 : SnapRecord := { capture live with cpuCyc := 7, ppuCyc := 21 }
def img0 : Image := .archive (some ⟨"0.2"⟩) (some (.encoded rec0))

/-- 44_events R234: image and report, and the Unpause of a handshake that paused. -/
theorem test_save : (after (exec .seqCSaveAck (acked 0b010 none)) live).out =
      [.snapImage (captureImage (acked 0b010 none)), .snapReport .saved] ∧
    (after (exec .seqCSaveAck (acked 0b010 none)) live).pq = [0x0002] := ⟨rfl, rfl⟩
/-- SN9. -/
theorem test_save_aborted : (after (exec .seqCSaveAck { acked 0b010 none with sphase := 0x7 }) live).snapStatus = .aborted ∧
    (after (exec .seqCSaveAck { acked 0b010 none with sphase := 0x7 }) live).cphase = 0b100 := ⟨rfl, rfl⟩
/-- SN7, SN8. -/
theorem test_load : (after (exec .seqCLoadAck (acked 0b011 (some img0))) live).cpuCyc = 7 ∧
    (after (exec .seqCLoadAck (acked 0b011 (some img0))) live).snapStatus = .loaded ∧
    (after (exec .seqCLoadAck { acked 0b011 (some img0) with ackVal := false }) live).pq = [] := by decide
/-- SN1-SN4, SN6, SN10: the first failure's code. -/
theorem test_load_refused :
    (checkImage .ntsc .ioError).1 = .errIo ∧ (checkImage .ntsc (.archive (some ⟨"0.1"⟩) none)).1 = .errVersion ∧
    (checkImage .ntsc (.archive none none)).1 = .errVersion ∧ (checkImage .ntsc (.archive (some ⟨"0.2"⟩) none)).1 = .errMissing ∧
    (checkImage .ntsc (.archive (some ⟨"0.2"⟩) (some (.encoded { rec0 with cpuCyc := 1, ppuCyc := 0 })))).1 = .errDecode ∧
    (checkImage .ntsc (.archive (some ⟨"0.2 "⟩) none)).1 = .errVersion := by decide

/-! ## Witnesses: for each obligation with hypotheses, a state and operands that meet them, clause by clause -/

/-- DecodeEncode. -/
theorem witness_DecodeEncode : Instr.wellFormed (.evPause .unpause true 255) = true := by decide
/-- EncodeDecode. -/
theorem witness_EncodeDecode : decode (.pq 0xFF05) = .instr (.pqPause true 255) := by decide
/-- EventLegalIffRow, both sides (EV15, EV16, EV34); IllegalEventDiscarded's word. -/
theorem witness_eventLegal : eventLegal ⟨0x4000FF05, none, none⟩ := by
  unfold eventLegal
  decide
theorem witness_eventIllegal_tag : ¬eventLegal ⟨0xB0000000, none, none⟩ := by
  unfold eventLegal
  decide
theorem witness_eventIllegal_kind : ¬eventLegal ⟨0x40000003, none, none⟩ := by
  unfold eventLegal
  decide
/-- CommandLegalIffRow, both sides; IllegalControlWord's word. -/
theorem witness_commandLegal : pauseLegal 0x0506 ∧ ¬pauseLegal 0x0008 ∧ controlLegal 0x50000000000000FF ∧
    ¬controlLegal 0x5000000000000100 ∧ (0x3FFFFFF#26 &&& 0x1000000#26 = 0x1000000#26) := by
  unfold pauseLegal controlLegal
  decide
/-- InputWritesOneButton: the highest button. -/
theorem witness_InputWritesOneButton : (7 : Nat) < 8 ∧ (7#3).toNat = 7 := by decide

/-- FetchRunsHandler: a handler with a push on PQ, and room for it. -/
theorem witness_FetchRunsHandler : ∃ (s : State) (e : EvEntry) (rest : List EvEntry) (i : Instr),
    s.running = true ∧ s.evq = e :: rest ∧ decodeEv e = .instr i ∧
      ((∃ k ack chan, i = .evPause k ack chan) ∨ i = .evSavestate ∨ (∃ img, i = .evLoadstate img) ∨ i = .evQuit) ∧
      s.pqRoom = true :=
  ⟨{ live with evq := [⟨0x70000000, none, none⟩] }, ⟨0x70000000, none, none⟩, [], .evQuit, rfl, rfl, by decide,
    .inr (.inr (.inr rfl)), by decide⟩
/-- IllegalEventDiscarded. -/
theorem witness_IllegalEventDiscarded : ∃ (s : State) (e : EvEntry) (rest : List EvEntry),
    s.running = true ∧ s.evq = e :: rest ∧ ¬eventLegal e :=
  ⟨{ live with evq := [⟨0xB0000000, none, none⟩] }, ⟨0xB0000000, none, none⟩, [], rfl, rfl, witness_eventIllegal_tag⟩
/-- FetchQuitsOrWaits: quitting; an empty queue; a full PQ before a pause request. -/
theorem witness_FetchQuitsOrWaits : idle.running = false ∧ (live.running = true ∧ live.evq = []) ∧
    ∃ (s : State) (e : EvEntry) (rest : List EvEntry), s.running = true ∧ s.pqRoom = false ∧ s.evq = e :: rest ∧
      decodeEv e = .instr .evSavestate :=
  ⟨rfl, ⟨rfl, rfl⟩,
    { live with evq := [⟨0x50000000, none, none⟩], plat := { live.plat with pqDepth := some 0 } },
    ⟨0x50000000, none, none⟩, [], rfl, by decide, rfl, by decide⟩

/-- SaveCompletes; HandshakeWaitsOrAborts, both clauses. -/
theorem witness_SaveCompletes : (acked 0b010 none).ackValid = true ∧ (acked 0b010 none).sphase ≠ 0x7 ∧
    (live.ackValid = false ∧ live.sphase ≠ 0x7) ∧ ({ live with sphase := 0x7 } : State).sphase = 0x7 := by decide
/-- LoadCompletes. -/
theorem witness_LoadCompletes : ∃ (s : State) (e : EvEntry) (b : SnapBytes) (r : SnapRecord),
    s.ackValid = true ∧ s.sphase ≠ 0x7 ∧ s.curEv = some e ∧ e.img = some (.archive (some ⟨"0.2"⟩) (some b)) ∧
    snapDecode b = some r ∧
    (r.cpuCyc.toNat * s.divNum) % 2 ^ 64 = (r.ppuCyc.toNat * 5 + r.quota.toNat) % 2 ^ 64 ∧
    r.quota.toNat ≤ 4 + 65535 * s.divNum :=
  ⟨acked 0b011 (some img0), ⟨0x60000000, none, some img0⟩, .encoded rec0, rec0, rfl, by decide, rfl, rfl, rfl, by decide,
    by decide⟩
/-- The hypotheses LoadFailsClosed shares over its five cases, for any image. -/
theorem witness_LoadFailsClosed_state (img : Image) : (acked 0b011 (some img)).ackValid = true ∧
    (acked 0b011 (some img)).sphase ≠ 0x7 ∧ (acked 0b011 (some img)).curEv = some ⟨0x60000000, none, some img⟩ :=
  ⟨rfl, by simp [acked], rfl⟩
/-- LoadFailsClosed: each of the five cases has an image (the fourth, a word no record encodes to, is the codec's free value:
it is met by any bytes on which `Config.decodeOther` answers none). -/
theorem witness_LoadFailsClosed : (∃ img, img = Image.ioError) ∧
    (∃ img info st, img = Image.archive info st ∧ info ≠ some ⟨"0.2"⟩) ∧
    (∃ img, img = Image.archive (some ⟨"0.2"⟩) none) ∧
    (∃ b r, snapDecode b = some r ∧
      (r.cpuCyc.toNat * (acked 0b011 none).divNum) % 2 ^ 64 ≠ (r.ppuCyc.toNat * 5 + r.quota.toNat) % 2 ^ 64) ∧
    ∃ b r, snapDecode b = some r ∧ 4 + 65535 * (acked 0b011 none).divNum < r.quota.toNat :=
  ⟨⟨_, rfl⟩, ⟨_, none, none, rfl, by decide⟩, ⟨_, rfl⟩, ⟨.encoded { rec0 with ppuCyc := 0 }, _, rfl, by decide⟩,
    ⟨.encoded { rec0 with quota := 983030 }, _, rfl, by decide⟩⟩
/-- VersionGate: no meta, and a version that is not "0.2". -/
theorem witness_VersionGate : ∃ (s : State) (e : EvEntry) (info : Option SnapMeta) (st : Option SnapBytes),
    s.ackValid = true ∧ s.sphase ≠ 0x7 ∧ s.curEv = some e ∧ e.img = some (.archive info st) ∧ info = some ⟨"0.1"⟩ ∧
    ∀ m, info = some m → m.version ≠ "0.2" :=
  ⟨acked 0b011 (some (.archive (some ⟨"0.1"⟩) none)), ⟨0x60000000, none, some (.archive (some ⟨"0.1"⟩) none)⟩,
    some ⟨"0.1"⟩, none, rfl, by decide, rfl, rfl, rfl, by
      intro m h
      cases h
      decide⟩

/-- The state after the save of `acked 0b010`. -/
def saved : State := after (exec .seqCSaveAck (acked 0b010 none)) live
/-- SnapshotRoundTrip. -/
theorem witness_SnapshotRoundTrip : ∃ (s t u : State) (img : Image),
    s.ackValid = true ∧ s.sphase ≠ 0x7 ∧ RatioExact s ∧ PortsQuiet s ∧ exec .seqCSaveAck s = .next t ∧
    t.out = s.out ++ [.snapImage img, .snapReport .saved] ∧ u.ackValid = true ∧ u.sphase ≠ 0x7 ∧ u.region = s.region ∧
    u.curEv = some ⟨0x60000000, none, some img⟩ :=
  ⟨acked 0b010 none, saved, acked 0b011 (some (captureImage (acked 0b010 none))), captureImage (acked 0b010 none), rfl,
    by decide, ⟨by decide, by decide⟩, ⟨rfl, rfl⟩, rfl, rfl, rfl, by decide, rfl, rfl⟩
/-- SnapshotDeterminesRun: two blocks that differ, the same to a snapshot. -/
theorem witness_SnapshotDeterminesRun : ∃ s u : State, s ≠ u ∧ SameEngine s u ∧ s.plat.evqDepth = none :=
  ⟨live, { live with evq := [⟨0x70000000, none, none⟩] }, fun h => (by cases congrArg State.evq h),
    ⟨rfl, ⟨rfl, rfl, rfl, rfl, rfl⟩, ⟨rfl, rfl, rfl, rfl, rfl⟩⟩, rfl⟩

/-- ApplyPauseByBits: a word of each kind. -/
theorem witness_ApplyPauseByBits : decodePq 0x0504 = .instr (.pqToggle true 5) ∧ decodePq 0x0005 = .instr (.pqPause true 0) ∧
    decodePq 0xFF02 = .instr (.pqUnpause false 255) ∧ decodePq 0x0003 = .instr .pqQuitsent := by decide
/-- PauseChecks: nothing waits, and a word waits. -/
theorem witness_PauseChecks : live.pq = [] ∧ ∃ (s : State) (q : BitVec 16) (rest : List (BitVec 16)) (i : Instr),
    s.pq = q :: rest ∧ decodePq q = .instr i :=
  ⟨rfl, { live with pq := [0x0001, 0x0002] }, 0x0001, [0x0002], .pqPause false 0, rfl, by decide⟩
/-- PauseScenario. -/
theorem witness_PauseScenario : ∃ s : State, s.running = true ∧ s.paused = false ∧ s.pq = [0x0001] :=
  ⟨{ live with pq := [0x0001] }, rfl, rfl, rfl⟩
/-- ToggleParity: with no level set before, and with one. -/
theorem witness_ToggleParity : live.paused = false ∧
    [Instr.pqToggle false 0, .pqQuitsent, .pqToggle true 5].all (fun i => isPauseInstr i && (pauseLevel i).isNone) = true ∧
    (∃ before init : List Instr, ∃ p, before = init ++ [p] ∧ pauseLevel p = some true ∧ before.all isPauseInstr = true) ∧
    ([] : List Instr).all isPauseInstr = true :=
  ⟨rfl, by decide, ⟨[.pqToggle false 0, .pqPause false 0], [.pqToggle false 0], .pqPause false 0, rfl, rfl, by decide⟩, rfl⟩

/-- SequencerMoves, clause by clause, at the values where QUOTA's clauses meet (4 and 5). -/
theorem witness_SequencerMoves :
    idle.running = false ∧
    (let s := { live with quota := 5 }; s.running = true ∧ 5 ≤ s.quota.toNat) ∧
    (let s := { live with quota := 4, drainPending := 1 }; s.running = true ∧ s.quota.toNat < 5 ∧ s.drainPending ≠ 0) ∧
    (let s := { live with quota := 5, drainPending := 1, plat := { live.plat with evqDepth := some 0 } }
     5 ≤ s.quota.toNat ∧ s.drainPending ≠ 0 ∧ s.running = true ∧ s.evqRoom = false) ∧
    live.drainPending = 0 := by decide
/-- CpuPhaseEffect. -/
theorem witness_CpuPhaseEffect :
    let s := { live with quota := 4 }
    s.running = true ∧ s.quota.toNat < 5 ∧ s.drainPending = 0 := by decide
/-- PpuCycleEffect, SingleStepLaws: in each step mode, running with room and quitting without. -/
theorem witness_PpuCycleEffect :
    let s := { live with sphase := 0x2, quota := 5 }
    s.sphase = 0x2 ∧ s.paused = false ∧ 5 ≤ s.quota.toNat ∧ (s.running = false ∨ s.evqRoom = true) ∧
    ({ s with stepMode := .cycleStep } : State).stepMode = .cycleStep ∧
    (let t := { s with running := false, plat := { s.plat with evqDepth := some 0 } }
     t.running = false ∨ t.evqRoom = true) := by decide
/-- DrainSlot: the last slot, and the largest count. -/
theorem witness_DrainSlot :
    (let s := { live with drainPending := 1 }; s.drainPending ≠ 0 ∧ (s.running = false ∨ s.evqRoom = true)) ∧
    (let s := { live with drainPending := 65535 }; s.drainPending ≠ 0 ∧ (s.running = false ∨ s.evqRoom = true)) := by decide
/-- PpuPhaseLength: the largest QUOTA. -/
theorem witness_PpuPhaseLength :
    let s := { live with sphase := 0x2, quota := 1048564 }
    s.sphase = 0x2 ∧ s.stepMode = .noStep ∧ s.paused = false ∧ s.plat.evqDepth = none := by decide
/-- QuitHalts: with the longest way to go, and each of the three states one step from HALT. -/
theorem witness_QuitHalts :
    (let s := { live with running := false, sphase := 0x2, quota := 1048564, drainPending := 65535 }
     s.running = false ∧ s.sphase ≠ 0x0 ∧ s.sphase.toNat ≤ 7) ∧
    (let s := { live with running := false, sphase := 0x5 }; s.sphase = 0x1 ∨ s.sphase = 0x5 ∨ s.sphase = 0x6) := by decide

/-- LifecycleCommands, clause by clause; ResetTwice. -/
theorem witness_LifecycleCommands : (live.sphase ≠ 0x0 ∨ live.started = true) ∧
    (idle.sphase = 0x0 ∧ idle.started = false ∧ idle.consFail = false) ∧
    ({ idle with consFail := true } : State).consFail = true ∧ idle.running = false ∧ live.running = true := by decide
/-- A map of 32 one-address ranges. -/
def full : List MapEntry := (List.range 32).map fun n => ⟨BitVec.ofNat 16 (2 * n), BitVec.ofNat 16 (2 * n), 1⟩
/-- MapAddChecks: each clause, with the range touching an entry and just missing it. -/
theorem witness_MapAddChecks :
    (¬((0 : Byte) ≠ 0)) ∧ ((1 : Byte) ≠ 0 ∧ ∃ d ∈ idle.plat.devices, d.1 = 1) ∧
    (idle.sphase = 0x0 ∧ idle.started = false) ∧ ¬(live.sphase = 0x0 ∧ live.started = false) ∧
    (0x2000 : Addr) < 0x3000 ∧ (0x2000 : Addr) ≤ 0x2000 ∧
    (∃ e ∈ mapped.mapCpu, e.lo ≤ (0x4017 : Addr) ∧ (0x3FFF : Addr) ≤ e.hi) ∧
    (∀ e ∈ mapped.mapCpu, ¬(e.lo ≤ (0x4015 : Addr) ∧ (0x4000 : Addr) ≤ e.hi)) ∧ mapped.mapCpu.length < 32 ∧
    (32 ≤ full.length ∧ ∀ e ∈ full, ¬(e.lo ≤ (0x1000 : Addr) ∧ (0x1000 : Addr) ≤ e.hi)) := by decide

/-- CsrLayout and ConstantAndReservedCsrs: the ends of each range of numbers. -/
theorem witness_CsrLayout : (0x15#8).toNat ≤ 0x15 ∧ (0x20 ≤ (0x20#8).toNat ∧ (0x5F#8).toNat ≤ 0x5F) ∧
    (0x16 ≤ (0x16#8).toNat ∧ (0x1F#8).toNat ≤ 0x1F) ∧ 0x60 ≤ (0x60#8).toNat ∧ 0x60 ≤ (0xFF#8).toNat := by decide

/-- A block whose CPU map names a device of each kind. -/
def bussed : State :=
  { idle with
    mapCpu := [⟨0, 9, 1⟩, ⟨10, 19, 2⟩, ⟨20, 29, 3⟩, ⟨30, 39, 4⟩, ⟨50, 59, 5⟩]
    plat := { idle.plat with devices := [(1, .ppuRegs), (2, .mapper), (3, .controller), (4, .plain), (5, .cpuOwned)] }
    dev := [(4, [7]), (5, [9])] }
/-- BusMapped: an address of each kind of device; BusUnmapped: the first address behind the last range. -/
theorem witness_Bus : bussed.lookup .cpu 9 = some 1 ∧ bussed.plat.kindOf 1 = .ppuRegs ∧ bussed.lookup .cpu 10 = some 2 ∧
    bussed.plat.kindOf 2 = .mapper ∧ bussed.lookup .cpu 29 = some 3 ∧ bussed.plat.kindOf 3 = .controller ∧
    bussed.lookup .cpu 39 = some 4 ∧ bussed.plat.kindOf 4 = .plain ∧
    bussed.lookup .cpu 50 = some 5 ∧ bussed.plat.kindOf 5 = .cpuOwned ∧
    ∀ e ∈ bussed.map .cpu, ¬(e.lo ≤ (40 : Addr) ∧ (40 : Addr) ≤ e.hi) := by decide
/-- 10_state R53: a reset changes the CPU's own device and no other. -/
theorem test_reset_devices : devGet (doReset bussed).dev 4 = [7] ∧
    devGet (doReset bussed).dev 5 = Config.cpuResetDev 5 bussed.cpu [9] :=
  ⟨devGet_resetDevices_other bussed.plat bussed.cpu bussed.dev 4 (by decide),
    devGet_resetDevices_own bussed.plat bussed.cpu bussed.dev 5 (by decide) (by decide)⟩
/-- LifecycleCommands, ResetTwice, WriterTable: DevicesReset's premises, with a device of each sort. -/
theorem witness_DevicesReset : bussed.sphase = 0x0 ∧ bussed.started = false ∧ bussed.consFail = false ∧
    devWf bussed.dev = true ∧ bussed.plat.kindOf 5 = .cpuOwned ∧ ∀ d : Byte, d.toNat = 4 → bussed.plat.kindOf d ≠ .cpuOwned := by
  decide
/-- LookupUnique. -/
theorem witness_LookupUnique : MapsSound bussed ∧ ∃ e ∈ bussed.map .cpu, e.lo ≤ (9 : Addr) ∧ (9 : Addr) ≤ e.hi :=
  ⟨⟨⟨by decide, by decide, by decide⟩, ⟨by decide, by decide, by decide⟩⟩, by decide⟩

/-- PrimitiveCallIsBus has no hypotheses; a call that reads, writes what it read to another address, and is done. -/
theorem test_run_bus :
    let call : BusProg Byte := .read 0x1000 fun v => .write 0x2000 (v + 1) (.done v)
    (runBus .cpu call idle).1 = idle.openBusCpu ∧ (runBus .cpu call idle).2.openBusCpu = idle.openBusCpu + 1 := by decide

/-- StepRunsDecoded, clause by clause. -/
theorem witness_StepRunsDecoded :
    (∃ (s : State) (b : BitVec 26) (i : Instr), s.busReq = some b ∧ decode (.bus b) = .instr i) ∧
    (∃ (s : State) (i : Instr), s.busReq = none ∧ s.turn = .scheduler ∧ decode (.sphase s.sphase) = .instr i) ∧
    (∃ (s : State) (i : Instr), s.busReq = none ∧ s.turn = .consumer ∧ decode (.cphase s.cphase) = .instr i) ∧
    ∃ (s : State) (c : BitVec 64) (port : List HostCmd) (i : Instr), HostTakes s (.ctl c) port ∧
      decode (.ctl c) = .instr i :=
  ⟨⟨{ idle with busReq := some 0x1200080 }, 0x1200080, .busWr .cpu 0x2000 0x80, rfl, by decide⟩,
    ⟨{ live with turn := .scheduler }, .seqTop, rfl, rfl, by decide⟩,
    ⟨{ live with turn := .consumer }, .seqCFetch, rfl, rfl, by decide⟩,
    ⟨{ idle with hostPort := [.ctl 0x4000000000000000] }, 0x4000000000000000, [], .ctlStart,
      ⟨rfl, rfl, .inl ⟨[], [], rfl, rfl, nofun, nofun⟩⟩, by decide⟩⟩
/-- StepRunsDecoded, IllegalControlWord: a control word taken past a push that waits for room. -/
theorem witness_HostTakes_past : ∃ (s : State) (c : BitVec 64) (port : List HostCmd), HostTakes s (.ctl c) port ∧
    port ≠ [] ∧ ¬controlLegal c :=
  ⟨{ noRoom with hostPort := [.push 0xB0000000 none, .ctl 0x5000000000000100] }, 0x5000000000000100,
    [.push 0xB0000000 none],
    ⟨rfl, rfl, .inl ⟨[.push 0xB0000000 none], [], rfl, rfl, by
      intro b hb
      rw [List.mem_singleton.1 hb]
      exact ⟨⟨_, _, rfl⟩, by decide⟩, nofun⟩⟩, by decide, witness_commandLegal.2.2.2.1⟩
/-- IllegalControlWord. -/
theorem witness_IllegalControlWord : ∃ (s : State) (c : BitVec 64) (port : List HostCmd),
    HostTakes s (.ctl c) port ∧ ¬controlLegal c :=
  witness_HostTakes_past.imp fun _ h => h.imp fun _ h => h.imp fun _ h => ⟨h.1, h.2.2⟩
/-- HostPush, the first clause with room: a refused tag and another; the second clause. (A push taken without room is the host's
free input: it is met where `Config.hostInput` names one.) -/
theorem witness_HostPush :
    (∃ (s : State) (w : BitVec 32) (img : Option Image) (port : List HostCmd), HostTakes s (.push w img) port ∧
      s.evqRoom = true ∧ (0x20000005#32).extractLsb' 28 4 = 0x2#4 ∧ w.extractLsb' 28 4 ≠ 0x1#4 ∧
      w.extractLsb' 28 4 ≠ 0x2#4) ∧
    ∃ (s : State) (w : BitVec 32) (img : Option Image) (port : List HostCmd), s.busReq = none ∧ s.turn = .host ∧
      s.evqRoom = false ∧ s.hostPort = .push w img :: port :=
  ⟨⟨{ live with hostPort := [.push 0xB0000000 none] }, 0xB0000000, none, [],
      ⟨rfl, rfl, .inl ⟨[], [], rfl, rfl, nofun, fun h => absurd h.2 (by decide)⟩⟩, by decide, by decide, by decide, by decide⟩,
    { noRoom with hostPort := [.push 0xB0000000 none] }, 0xB0000000, none, [],
    rfl, rfl, by decide, rfl⟩
/-- StepIffEnabled; WriterTable: an instruction of each agent that answers. -/
theorem witness_WriterTable : decodeSphase live.sphase = .instr .seqTop ∧ decodeCphase live.cphase = .instr .seqCFetch ∧
    decodeCtl 0x3000000000000000 = .instr .ctlReset ∧ ∀ i, i = .seqTop ∨ i = .seqCFetch ∨ i = .ctlReset →
      ∃ t, exec i live = .next t :=
  ⟨by decide, by decide, by decide, by
    rintro i (rfl | rfl | rfl)
    all_goals exact ⟨_, rfl⟩⟩
/-- A consumer with an event to fetch. -/
def fetchable : State := { live with evq := [⟨0x80000000, none, none⟩] }
/-- StepIffEnabled, the states without a step: a paused scheduler with nothing on PQ, a consumer with nothing on EVQ. -/
theorem witness_StepIffEnabled :
    (let s := { live with paused := true, sphase := 0x5 }
     decodeSphase s.sphase = .instr .seqPwait ∧ s.schedulerEnabled = false) ∧
    decodeCphase live.cphase = .instr .seqCFetch ∧ live.consumerEnabled = false ∧ live.schedulerEnabled = true ∧
    fetchable.consumerEnabled = true := by decide
/-- StuckIffReserved: legal codes, and the least reserved code of each sequencer. -/
theorem witness_StuckIffReserved : CodesLegal live ∧ ({ live with sphase := 0x8, turn := .scheduler } : State).busReq = none ∧
    8 ≤ (0x8#4).toNat ∧ 5 ≤ (0b101#3).toNat ∧ ({ live with turn := .consumer } : State).turn = .consumer :=
  ⟨⟨by decide, by decide⟩, rfl, by decide, by decide, rfl⟩

/-- The consumer about to fetch a SAVESTATE. -/
def fetching : State := { live with turn := .consumer, evq := [⟨0x50000000, none, none⟩] }
/-- What the step of `fetching` leaves, the free schedule's choice aside. -/
theorem fetching_steps : ∃ t, step fetching = .next t ∧ t.cphase = 0b010 ∧ t.pq = [0x0005] := ⟨_, rfl, rfl, rfl⟩
/-- NeverUndone, ConfigurationFixed, QueuesAreFifos and the premises of the invariants: a state that meets every one of them,
and that steps. -/
theorem witness_Invariants : CodesLegal fetching ∧ Lifecycle fetching ∧ RatioExact fetching ∧ PauseSound fetching ∧
    HandshakeSound fetching ∧ QuotaSettled fetching ∧ MapsSound fetching ∧ QueuesSound fetching ∧ CurEvSound fetching ∧
    PortsQuiet fetching ∧ ∃ t, step fetching = .next t :=
  ⟨⟨by decide, by decide⟩, ⟨nofun, fun _ => ⟨by decide, by decide⟩, fun h => absurd rfl h⟩, ⟨by decide, by decide⟩,
    ⟨nofun, fun h => absurd h (by decide)⟩, ⟨fun _ _ => ⟨rfl, .inl nofun⟩, fun h => absurd h (by decide)⟩,
    fun h => absurd h (by decide), ⟨⟨by decide, by decide, by decide⟩, ⟨by decide, by decide, by decide⟩⟩,
    ⟨by
      intro e he
      rw [List.mem_singleton.1 he]
      exact ⟨by decide, nofun⟩, nofun⟩,
    ⟨fun h => absurd h (by decide), fun h => absurd h (by decide), fun _ _ => rfl⟩, ⟨rfl, rfl⟩,
    fetching_steps.imp fun _ h => h.1⟩
/-- PortsKept: a step from a state with a request standing and the device store in its form. -/
theorem witness_PortsKept : ∃ s t : State, s.busReq = some 0x0200000 ∧ devWf s.dev = true ∧ step s = .next t :=
  ⟨{ idle with busReq := some 0x0200000 }, _, rfl, by decide, rfl⟩
/-- NeverUndone: a halted block after a fault, all its sticky bits set, that steps. -/
theorem witness_NeverUndone : ∃ s t : State, step s = .next t ∧ s.started = true ∧ s.running = false ∧
    s.fault ≠ .none ∧ s.evIllegal = true ∧ s.hostRefused = true ∧ s.consFail = true ∧ s.sphase = 0x7 ∧ s.cphase = 0b100 :=
  ⟨{ live with
      running := false, fault := .busFault, evIllegal := true, hostRefused := true, consFail := true, sphase := 0x7
      cphase := 0b100, turn := .scheduler },
    _, rfl, rfl, rfl, by decide, rfl, rfl, rfl, rfl, rfl⟩
/-- PausedStandsStill: a paused scheduler that takes an Unpause. -/
theorem witness_PausedStandsStill : ∃ s t : State, PauseSound s ∧ s.paused = true ∧ s.busReq = none ∧ s.turn = .scheduler ∧
    step s = .next t ∧ t.paused = false :=
  ⟨{ live with paused := true, sphase := 0x5, pq := [0x0002], turn := .scheduler }, _,
    ⟨fun _ => .inl rfl, fun _ => rfl⟩, rfl, rfl, rfl, rfl, rfl⟩

end Sys2Proof.Tests
end

/-!
The effects of a step, agent by agent: the record of the fields an agent writes (10_state R58), and one fact per field that a
claim about every step turns on. The claims of this family are read off these.
-/
namespace Sys2Proof.Machine

/-! ## Words the block itself pushes -/

/-- A forwarded pause request is a row of 30_encoding R105. -/
theorem decodePq_pauseWord (kind : PauseKind) (ack : Bool) (chan : Byte) :
    ∃ i, decodePq (pauseWord kind ack chan) = .instr i := by
  unfold decodePq
  simp only [pauseWord_kind, pauseKindOf_bits, pauseWord_zero]
  cases kind <;> exact ⟨_, rfl⟩

theorem decodePq_handshakeWord : ∃ i, decodePq handshakeWord = .instr i := ⟨_, rfl⟩
theorem decodePq_resumeWord : ∃ i, decodePq resumeWord = .instr i := ⟨_, rfl⟩
theorem decodePq_quitsentWord : ∃ i, decodePq quitsentWord = .instr i := ⟨_, rfl⟩

/-- A completed frame's entry carries a framebuffer of the platform's size (10_state R38). -/
theorem entrySound_frameEntry (p : Platform) (seq : BitVec 28) (pixel : Nat → Nat → Pixel) :
    EntrySound p (frameEntry seq (framebufferOf p pixel)) := by
  refine ⟨by simp [frameEntry], ?_⟩
  rintro fb ⟨⟩
  simp [framebufferOf]

/-- An entry with no framebuffer is sound when its tag is not FRAME's. -/
theorem entrySound_of_fb_none {p : Platform} {e : EvEntry} (hf : e.fb = none) (ht : e.word.extractLsb' 28 4 ≠ 0x1#4) :
    EntrySound p e := by
  simp [EntrySound, hf, ht]

theorem frameEvents_le (fb : Option (Nat → Nat → Pixel)) (s : State) : (frameEvents fb s).length ≤ 1 := by
  unfold frameEvents
  split
  · split <;> simp
  · simp

theorem frameEvents_sound (fb : Option (Nat → Nat → Pixel)) (s : State) : ∀ e ∈ frameEvents fb s, EntrySound s.plat e := by
  unfold frameEvents
  split
  · split
    · simpa using entrySound_frameEntry s.plat s.frameSeq _
    · simp
  · simp

theorem sampleEvents_le (r : ApuResult) (s : State) : (sampleEvents r s).length ≤ 1 := by
  unfold sampleEvents
  split <;> simp

theorem sampleEvents_sound (r : ApuResult) (s : State) : ∀ e ∈ sampleEvents r s, EntrySound s.plat e := by
  unfold sampleEvents
  split
  · simpa using entrySound_of_fb_none (e := bareEntry (sampleWord r.sample)) rfl (by simp [bareEntry])
  · simp

/-! ## The scheduler's operations as record updates -/

/-- A TOP whose CPU step failed (60_exceptions R302, R303) or returned its cycles (42_scheduler R172). -/
theorem cpuReturned_cases (r : CpuResult) (u : State) :
    (∃ code, cpuReturned r u = { u with
        cpu := r.cpu, fault := if u.fault = .none then code else u.fault, running := false
        out := u.out ++ [.fatal code], sphase := SPhase.halt }) ∨
      ∃ latch, cpuReturned r u = { u with
        cpu := r.cpu, quota := u.quota + BitVec.ofNat 32 (r.cycles.toNat * u.divNum)
        cpuCyc := u.cpuCyc + r.cycles.setWidth 64, drainPending := r.cycles, nmiLatch := latch, sphase := SPhase.ppu } := by
  unfold cpuReturned
  cases r.err with
  | some e => exact .inl ⟨faultOf e, rfl⟩
  | none => exact .inr ⟨_, rfl⟩

theorem applyPause_mailbox (k : PauseKind) (a : Bool) (c : Byte) (s : State) (h : s.ackValid = true) :
    (applyPause k a c s).ackValid = true := by
  rw [applyPause_ackValid, h, Bool.true_or]

theorem onPauseWord_ackValid (q : BitVec 16) (s : State) (h : s.ackValid = true) : (onPauseWord q s).ackValid = true := by
  unfold onPauseWord
  split
  · exact applyPause_mailbox _ _ _ _ h
  · exact applyPause_mailbox _ _ _ _ h
  · exact applyPause_mailbox _ _ _ _ h
  · exact h
  · exact h

theorem takePause_ackValid (s : State) (h : s.ackValid = true) : (takePause s).ackValid = true := by
  unfold takePause
  split
  · exact h
  · exact onPauseWord_ackValid _ _ h

/-- A pause check with the fields it may have changed given names; it never empties the mailbox. -/
theorem takePause_fields (s : State) : ∃ paused ackValid ackVal l, (s.ackValid = true → ackValid = true) ∧
    takePause s = { s with
      paused := paused, ackValid := ackValid, ackVal := ackVal, out := s.out ++ l, pq := s.pq.tail } := by
  obtain ⟨l, hl⟩ := takePause_out s
  exact ⟨_, _, _, l, takePause_ackValid s, by rw [← hl]; exact takePause_eq s⟩

/-- A pause check of PCHECK or PWAIT and the move after it (42_scheduler R175, R176): it takes at most the head of PQ, never
empties the mailbox, and goes to PWAIT, HALT, PPU or EXITCHK. -/
def PauseStep (s t : State) : Prop :=
  ∃ paused ackValid ackVal l ret p, (s.ackValid = true → ackValid = true) ∧
    (p = SPhase.pwait ∨ p = SPhase.halt ∨ p = SPhase.ppu ∨ p = SPhase.exitchk) ∧
    t = { s with
      paused := paused, ackValid := ackValid, ackVal := ackVal, out := s.out ++ l, pq := s.pq.tail
      pwaitRet := ret, sphase := p }

theorem checkedPause_step (s : State) : PauseStep s (checkedPause (takePause s)) := by
  obtain ⟨paused, _, _, l, ha, k⟩ := takePause_fields s
  rw [k]
  cases paused with
  | true => exact ⟨_, _, _, l, false, _, ha, .inl rfl, rfl⟩
  | false => exact ⟨_, _, _, l, _, _, ha, .inr (.inr (.inr rfl)), rfl⟩

theorem waitedPause_step (s : State) (hp : s.sphase = SPhase.pwait) : PauseStep s (waitedPause (takePause s)) := by
  obtain ⟨_, _, _, l, ha, k⟩ := takePause_fields s
  rw [k]
  unfold waitedPause
  split
  · exact ⟨_, _, _, l, _, _, ha, .inr (.inl rfl), rfl⟩
  · split
    · exact ⟨_, _, _, l, _, _, ha, .inl hp, rfl⟩
    · refine ⟨_, _, _, l, _, _, ha, ?_, rfl⟩
      dsimp only
      split
      · exact .inr (.inr (.inl rfl))
      · exact .inr (.inr (.inr rfl))

/-- What a scheduler step from `s` to `t` can be, each case as one record update of `s`. -/
inductive SchedUpdate (s t : State) : Prop where
  | stay (h : t = s)
  | move (p : BitVec 4) (hm : SeqMove s p) (h : t = { s with sphase := p })
  | fatal (hp : s.sphase = SPhase.top) (code : FaultCode) (cpu : CpuState) (ppu : PpuState) (mapper : MapperState)
      (dev : DevStore) (cpuBus ppuBus : Byte) (h : t = { s with
        ppu := ppu, mapper := mapper, dev := dev, openBusCpu := cpuBus, openBusPpu := ppuBus, cpu := cpu
        fault := if s.fault = .none then code else s.fault, running := false, out := s.out ++ [.fatal code]
        sphase := SPhase.halt })
  | credit (hp : s.sphase = SPhase.top) (hq : s.quota.toNat < 5) (n : BitVec 16) (latch : Bool) (cpu : CpuState)
      (ppu : PpuState) (mapper : MapperState) (dev : DevStore) (cpuBus ppuBus : Byte) (h : t = { s with
        ppu := ppu, mapper := mapper, dev := dev, openBusCpu := cpuBus, openBusPpu := ppuBus, cpu := cpu
        quota := s.quota + BitVec.ofNat 32 (n.toNat * s.divNum), cpuCyc := s.cpuCyc + n.setWidth 64, drainPending := n
        nmiLatch := latch, sphase := SPhase.ppu })
  | pay (hp : s.sphase = SPhase.ppu) (hq : 5 ≤ s.quota.toNat) (l : List EvEntry) (hl : l.length ≤ 1)
      (he : ∀ e ∈ l, EntrySound s.plat e) (latch prev paused ret : Bool) (seq : BitVec 28) (p : BitVec 4) (ppu : PpuState)
      (mapper : MapperState) (dev : DevStore) (cpuBus ppuBus : Byte) (hto : p = SPhase.ppu ∨ p = SPhase.pwait)
      (h : t = { s with
        ppu := ppu, mapper := mapper, dev := dev, openBusCpu := cpuBus, openBusPpu := ppuBus, ppuCyc := s.ppuCyc + 1
        nmiLatch := latch, nmiPrev := prev, evq := s.evq ++ l, frameSeq := seq, quota := s.quota - 5, paused := paused
        pwaitRet := ret, sphase := p })
  | sample (hp : s.sphase = SPhase.drain) (l : List EvEntry) (hl : l.length ≤ 1) (he : ∀ e ∈ l, EntrySound s.plat e)
      (n : BitVec 16) (cpu : CpuState) (h : t = { s with cpu := cpu, evq := s.evq ++ l, drainPending := n })
  | pause (hp : s.sphase = SPhase.pcheck ∨ s.sphase = SPhase.pwait) (h : PauseStep s t)

theorem SchedCase.update {s t : State} (h : SchedCase s t) : SchedUpdate s t := by
  cases h with
  | stay h => exact .stay h
  | move p hm h => exact .move p hm h
  | cpu r u hp hr hq hd hu hwf h =>
    obtain ⟨_, _, _, _, _, rfl⟩ := hu.fields
    rcases cpuReturned_cases r _ with ⟨code, k⟩ | ⟨latch, k⟩
    · exact .fatal hp code _ _ _ _ _ _ (h.trans k)
    · exact .credit hp hq r.cycles latch _ _ _ _ _ _ (h.trans k)
  | ppu sl r u hp hq hm hu hwf h =>
    obtain ⟨_, _, _, _, _, rfl⟩ := hu.fields
    rw [ppuReturned_eq] at h
    refine .pay hp hq _ (frameEvents_le r.fb _) (frameEvents_sound r.fb _) _ _ _ _ _ _ _ _ _ _ _ ?_ h
    split
    · exact .inr rfl
    · exact .inl hp
  | sample r hp hd hm h =>
    rw [sampleReturned_eq] at h
    exact .sample hp _ (sampleEvents_le r s) (sampleEvents_sound r s) _ _ h
  | check hp h => exact .pause (.inl hp) (h ▸ checkedPause_step s)
  | wait hp hw h => exact .pause (.inr hp) (h ▸ waitedPause_step s hp)

/-! ## What a scheduler step does to the rest of the block -/

/-- `t` is `s` but for the fields the writer table gives the scheduler (10_state R58). -/
def SchedWrites (s t : State) : Prop :=
  t = { s with
    running := t.running, quota := t.quota, paused := t.paused, sphase := t.sphase, pwaitRet := t.pwaitRet
    drainPending := t.drainPending, cpuCyc := t.cpuCyc, ppuCyc := t.ppuCyc, frameSeq := t.frameSeq, fault := t.fault
    nmiLatch := t.nmiLatch, nmiPrev := t.nmiPrev, openBusCpu := t.openBusCpu, openBusPpu := t.openBusPpu
    evq := t.evq, pq := t.pq, ackValid := t.ackValid, ackVal := t.ackVal
    cpu := t.cpu, ppu := t.ppu, mapper := t.mapper, dev := t.dev, out := t.out }

/-- What a scheduler step from `s` to `t` does to the fields it shares with the other agents: it only stops the run, keeps the
first fault, only fills the mailbox, appends at most one sound event, takes at most the head of PQ, and only emits. -/
structure SchedEffect (s t : State) : Prop where
  writes : SchedWrites s t
  running : t.running = true → s.running = true
  fault : t.fault = s.fault ∨ (s.fault = .none ∧ t.running = false)
  ackValid : s.ackValid = true → t.ackValid = true
  evq : ∃ l, l.length ≤ 1 ∧ (∀ e ∈ l, EntrySound s.plat e) ∧ t.evq = s.evq ++ l
  pq : t.pq = s.pq ∨ t.pq = s.pq.tail
  out : ∃ l, t.out = s.out ++ l

/-- Nothing is pushed. -/
theorem evq_append_none (s : State) : ∃ l, l.length ≤ 1 ∧ (∀ e ∈ l, EntrySound s.plat e) ∧ s.evq = s.evq ++ l :=
  ⟨[], by simp⟩

/-- Nothing is emitted. -/
theorem out_append_none (s : State) : ∃ l, s.out = s.out ++ l := ⟨[], by simp⟩

theorem SchedCase.effect {s t : State} (h : SchedCase s t) : SchedEffect s t := by
  cases h.update with
  | stay h => subst h; exact ⟨rfl, id, .inl rfl, id, evq_append_none t, .inl rfl, out_append_none t⟩
  | move p hm h => subst h; exact ⟨rfl, id, .inl rfl, id, evq_append_none s, .inl rfl, out_append_none s⟩
  | fatal hp code cpu ppu mapper dev cpuBus ppuBus h =>
    subst h
    refine ⟨rfl, nofun, ?_, id, evq_append_none s, .inl rfl, ⟨_, rfl⟩⟩
    by_cases hf : s.fault = .none
    · exact .inr ⟨hf, rfl⟩
    · exact .inl (if_neg hf)
  | credit hp hq n latch cpu ppu mapper dev cpuBus ppuBus h =>
    subst h
    exact ⟨rfl, id, .inl rfl, id, evq_append_none s, .inl rfl, out_append_none s⟩
  | pay hp hq l hl he latch prev paused ret seq p ppu mapper dev cpuBus ppuBus hto h =>
    subst h
    exact ⟨rfl, id, .inl rfl, id, ⟨l, hl, he, rfl⟩, .inl rfl, out_append_none s⟩
  | sample hp l hl he n cpu h =>
    subst h
    exact ⟨rfl, id, .inl rfl, id, ⟨l, hl, he, rfl⟩, .inl rfl, out_append_none s⟩
  | pause hp h =>
    obtain ⟨_, _, _, l, _, p, ha, -, rfl⟩ := h
    exact ⟨rfl, id, .inl rfl, ha, evq_append_none s, .inr rfl, ⟨l, rfl⟩⟩

/-- What the scheduler never writes (10_state R58). -/
theorem SchedEffect.unwritten {s t : State} (h : SchedEffect s t) :
    t.started = s.started ∧ t.stepMode = s.stepMode ∧ t.region = s.region ∧ t.hasSlc = s.hasSlc ∧
      t.mapCpu = s.mapCpu ∧ t.mapPpu = s.mapPpu ∧ t.ctrl0 = s.ctrl0 ∧ t.ctrl1 = s.ctrl1 ∧ t.cphase = s.cphase ∧
      t.curEv = s.curEv ∧ t.showFps = s.showFps ∧ t.evIllegal = s.evIllegal ∧ t.hostRefused = s.hostRefused ∧
      t.consFail = s.consFail ∧ t.ctlStatus = s.ctlStatus ∧ t.snapStatus = s.snapStatus ∧ t.plat = s.plat := by
  rw [h.writes]
  simp only [and_self]

/-! ## What a scheduler step does to its sequencer and its counters -/

/-- The scheduler moves from neither IDLE nor HALT (42_scheduler R171, R178), and to a code of the table that is not IDLE. -/
theorem SchedCase.sphase {s t : State} (h : SchedCase s t) :
    t = s ∨ s.sphase ≠ SPhase.idle ∧ s.sphase ≠ SPhase.halt ∧ t.sphase ≠ SPhase.idle ∧ t.sphase.toNat ≤ 7 := by
  cases h.update with
  | stay h => exact .inl h
  | move p hm h => right; subst h; cases hm <;> simp [*]
  | fatal hp code cpu ppu mapper dev cpuBus ppuBus h => right; subst h; simp [hp]
  | credit hp hq n latch cpu ppu mapper dev cpuBus ppuBus h => right; subst h; simp [hp]
  | pay hp hq l hl he latch prev paused ret seq p ppu mapper dev cpuBus ppuBus hto h =>
    right
    subst h
    rcases hto with rfl | rfl <;> simp [hp]
  | sample hp l hl he n cpu h => right; subst h; simp [hp]
  | pause hp h =>
    right
    obtain ⟨_, _, _, l, _, p, -, hto, rfl⟩ := h
    rcases hp with hp | hp <;> rcases hto with rfl | rfl | rfl | rfl <;> simp [hp]

/-- What a scheduler step does to CPU_CYC, PPU_CYC and QUOTA: nothing, the credit of a CPU step, or the payment of one PPU
cycle (10_state R51). -/
inductive CounterCase (s t : State) : Prop where
  | same (hc : t.cpuCyc = s.cpuCyc) (hp : t.ppuCyc = s.ppuCyc) (hq : t.quota = s.quota)
  | credit (n : BitVec 16) (hlow : s.quota.toNat < 5) (hc : t.cpuCyc = s.cpuCyc + n.setWidth 64)
      (hp : t.ppuCyc = s.ppuCyc) (hq : t.quota = s.quota + BitVec.ofNat 32 (n.toNat * s.divNum))
  | pay (hhigh : 5 ≤ s.quota.toNat) (hc : t.cpuCyc = s.cpuCyc) (hp : t.ppuCyc = s.ppuCyc + 1)
      (hq : t.quota = s.quota - 5)

theorem SchedCase.counters {s t : State} (h : SchedCase s t) : CounterCase s t := by
  cases h.update with
  | stay h => subst h; exact .same rfl rfl rfl
  | move p hm h => subst h; exact .same rfl rfl rfl
  | fatal hp code cpu ppu mapper dev cpuBus ppuBus h => subst h; exact .same rfl rfl rfl
  | credit hp hq n latch cpu ppu mapper dev cpuBus ppuBus h => subst h; exact .credit n hq rfl rfl rfl
  | pay hp hq l hl he latch prev paused ret seq p ppu mapper dev cpuBus ppuBus hto h =>
    subst h
    exact .pay hq rfl rfl rfl
  | sample hp l hl he n cpu h => subst h; exact .same rfl rfl rfl
  | pause hp h =>
    obtain ⟨_, _, _, l, _, p, -, -, rfl⟩ := h
    exact .same rfl rfl rfl

/-- The scheduler enters DRAIN only with less than a PPU cycle owed (42_scheduler R172, R173), PCHECK only from DRAIN (R174), and
neither the move nor a step that stays there changes QUOTA. -/
theorem SchedCase.settles {s t : State} (h : SchedCase s t) (ht : t.sphase = SPhase.drain ∨ t.sphase = SPhase.pcheck) :
    t.quota = s.quota ∧ (s.quota.toNat < 5 ∨ s.sphase = SPhase.drain ∨ s.sphase = SPhase.pcheck) := by
  cases h.update with
  | stay h => subst h; exact ⟨rfl, .inr ht⟩
  | move p hm h =>
    subst h
    refine ⟨rfl, ?_⟩
    cases hm with
    | topDrain hp hr hq hd => exact .inl hq
    | ppuDone hp hq => exact .inl hq
    | drainDone hp hd => exact .inr (.inl hp)
    | topQuit => simp at ht
    | topPpu => simp at ht
    | exitTop => simp at ht
    | exitHalt => simp at ht
  | fatal hp code cpu ppu mapper dev cpuBus ppuBus h => subst h; simp at ht
  | credit hp hq n latch cpu ppu mapper dev cpuBus ppuBus h => subst h; simp at ht
  | pay hp hq l hl he latch prev paused ret seq p ppu mapper dev cpuBus ppuBus hto h =>
    subst h
    rcases hto with rfl | rfl <;> simp at ht
  | sample hp l hl he n cpu h => subst h; exact ⟨rfl, .inr (.inl hp)⟩
  | pause hp h =>
    obtain ⟨_, _, _, l, _, p, -, hto, rfl⟩ := h
    rcases hto with rfl | rfl | rfl | rfl <;> simp at ht

/-! ## What a consumer step does -/

/-- `t` is `u` but for the fields the writer table gives the consumer outside a load (10_state R58). -/
def ConsWrites (u t : State) : Prop :=
  t = { u with
    running := t.running, stepMode := t.stepMode, ctrl0 := t.ctrl0, ctrl1 := t.ctrl1, evq := t.evq, pq := t.pq
    cphase := t.cphase, curEv := t.curEv, ackValid := t.ackValid, showFps := t.showFps, evIllegal := t.evIllegal
    snapStatus := t.snapStatus, out := t.out }

/-- The engine a consumer step leaves: the one it found, or that of a record that passed the checks of 45_snapshot R263, put in
place by an acknowledged load (44_events R235). -/
inductive EngineCase (s t u : State) : Prop where
  | kept (h : u = s)
  | loaded (r : SnapRecord) (hfit : recordFits s.region r = true) (hp : s.cphase = CPhase.loadAck)
      (ha : s.ackValid = true) (hh : s.sphase ≠ SPhase.halt) (hs : t.snapStatus = .loaded) (h : u = applyRecord r s)

/-- What a consumer step from `s` to `t` does to the fields it shares with the other agents: it only stops the run, only empties
the mailbox, takes at most the head of EVQ, appends at most one legal word to PQ, and only emits. -/
structure ConsEffect (s t : State) : Prop where
  writes : ∃ u, EngineCase s t u ∧ ConsWrites u t
  running : t.running = true → s.running = true
  ackValid : t.ackValid = true → s.ackValid = true
  evIllegal : s.evIllegal = true → t.evIllegal = true
  evq : t.evq = s.evq ∨ ∃ e, s.evq = e :: t.evq
  pq : ∃ l, l.length ≤ 1 ∧ (∀ q ∈ l, ∃ i, decodePq q = .instr i) ∧ t.pq = s.pq ++ l
  out : ∃ l, t.out = s.out ++ l

/-- Nothing is pushed. -/
theorem pq_append_none (s : State) :
    ∃ l, l.length ≤ 1 ∧ (∀ q ∈ l, ∃ i, decodePq q = .instr i) ∧ s.pq = s.pq ++ l := ⟨[], by simp⟩

/-- One legal word is pushed. -/
theorem pq_append_one (s : State) {q : BitVec 16} (h : ∃ i, decodePq q = .instr i) :
    ∃ l, l.length ≤ 1 ∧ (∀ q ∈ l, ∃ i, decodePq q = .instr i) ∧ s.pq ++ [q] = s.pq ++ l :=
  ⟨[q], le_rfl, by simpa using h, rfl⟩

/-- The handshake's resume, pushed only if the handshake paused the scheduler (44_events R234). -/
theorem pq_append_resume (s : State) (changed : Bool) :
    ∃ l, l.length ≤ 1 ∧ (∀ q ∈ l, ∃ i, decodePq q = .instr i) ∧
      (if changed = true then s.pq ++ [resumeWord] else s.pq) = s.pq ++ l := by
  cases changed
  · exact pq_append_none s
  · exact pq_append_one s decodePq_resumeWord

/-- A handler's effect, once its entry is popped. -/
theorem EntryCase.effect {e : EvEntry} {s t : State} {rest : List EvEntry} (he : s.evq = e :: rest)
    (h : EntryCase e { s with evq := rest } t) : ConsEffect s t := by
  cases h with
  | frame seq fb h =>
    subst h
    exact ⟨⟨s, .kept rfl, rfl⟩, id, id, id, .inr ⟨e, he⟩, pq_append_none s, ⟨_, rfl⟩⟩
  | sample w h =>
    subst h
    exact ⟨⟨s, .kept rfl, rfl⟩, id, id, id, .inr ⟨e, he⟩, pq_append_none s, ⟨_, rfl⟩⟩
  | input c0 c1 h =>
    subst h
    exact ⟨⟨s, .kept rfl, rfl⟩, id, id, id, .inr ⟨e, he⟩, pq_append_none s, out_append_none s⟩
  | pause kind ack chan hd h =>
    subst h
    exact ⟨⟨s, .kept rfl, rfl⟩, id, id, id, .inr ⟨e, he⟩, pq_append_one s (decodePq_pauseWord kind ack chan),
      out_append_none s⟩
  | save hd h =>
    subst h
    exact ⟨⟨s, .kept rfl, rfl⟩, id, id, id, .inr ⟨e, he⟩, pq_append_one s decodePq_handshakeWord, out_append_none s⟩
  | load img hd h =>
    subst h
    exact ⟨⟨s, .kept rfl, rfl⟩, id, id, id, .inr ⟨e, he⟩, pq_append_one s decodePq_handshakeWord, out_append_none s⟩
  | quit hd h =>
    subst h
    exact ⟨⟨s, .kept rfl, rfl⟩, nofun, id, id, .inr ⟨e, he⟩, pq_append_one s decodePq_quitsentWord, out_append_none s⟩
  | step mode h =>
    subst h
    exact ⟨⟨s, .kept rfl, rfl⟩, id, id, id, .inr ⟨e, he⟩, pq_append_none s, out_append_none s⟩
  | fps h =>
    subst h
    exact ⟨⟨s, .kept rfl, rfl⟩, id, id, id, .inr ⟨e, he⟩, pq_append_none s, out_append_none s⟩
  | discard h =>
    subst h
    exact ⟨⟨s, .kept rfl, rfl⟩, id, id, fun _ => rfl, .inr ⟨e, he⟩, pq_append_none s, out_append_none s⟩

theorem ConsCase.effect {s t : State} (h : ConsCase s t) : ConsEffect s t := by
  cases h with
  | stay h =>
    subst h
    exact ⟨⟨t, .kept rfl, rfl⟩, id, id, id, .inl rfl, pq_append_none t, out_append_none t⟩
  | quit hp hr h =>
    subst h
    exact ⟨⟨s, .kept rfl, rfl⟩, id, id, id, .inl rfl, pq_append_none s, out_append_none s⟩
  | entry e rest hp hr he hroom h => exact EntryCase.effect he (h ▸ entryCase e _)
  | abort hp hh h =>
    subst h
    exact ⟨⟨s, .kept rfl, rfl⟩, id, nofun, id, .inl rfl, pq_append_none s, ⟨_, rfl⟩⟩
  | save hp ha hh h =>
    rw [finishSave_eq] at h
    subst h
    exact ⟨⟨s, .kept rfl, rfl⟩, id, nofun, id, .inl rfl, pq_append_resume s _, ⟨_, rfl⟩⟩
  | load hp ha hh h =>
    rcases finishLoad_cases s with ⟨code, hc, k⟩ | ⟨r, hfit, k⟩ <;> rw [k, endHandshake_eq] at h <;> subst h
    · exact ⟨⟨s, .kept rfl, rfl⟩, id, nofun, id, .inl rfl, pq_append_resume s _, ⟨_, rfl⟩⟩
    · exact ⟨⟨_, .loaded r hfit hp ha hh rfl rfl, rfl⟩, id, nofun, id, .inl rfl, pq_append_resume s _, ⟨_, rfl⟩⟩

/-- Outside a load that was applied the engine stays as it was. -/
theorem EngineCase.eq_of_not_loaded {s t u : State} (h : EngineCase s t u)
    (hn : t.snapStatus ≠ .loaded ∨ s.cphase ≠ CPhase.loadAck) : u = s := by
  cases h with
  | kept h => exact h
  | loaded r hfit hp ha hh hs h => exact absurd hn (by simp [hp, hs])

/-- `t` is `s` but for the fields the writer table gives the consumer, the engine a load writes included (10_state R58). -/
def ConsMayWrite (s t : State) : Prop :=
  t = { s with
    running := t.running, stepMode := t.stepMode, quota := t.quota, drainPending := t.drainPending, cpuCyc := t.cpuCyc
    ppuCyc := t.ppuCyc, frameSeq := t.frameSeq, nmiLatch := t.nmiLatch, nmiPrev := t.nmiPrev
    openBusCpu := t.openBusCpu, openBusPpu := t.openBusPpu, ctrl0 := t.ctrl0, ctrl1 := t.ctrl1, evq := t.evq, pq := t.pq
    cphase := t.cphase, curEv := t.curEv, ackValid := t.ackValid, showFps := t.showFps, evIllegal := t.evIllegal
    snapStatus := t.snapStatus, cpu := t.cpu, ppu := t.ppu, mapper := t.mapper, dev := t.dev, out := t.out }

theorem ConsEffect.mayWrite {s t : State} (h : ConsEffect s t) : ConsMayWrite s t := by
  obtain ⟨u, hu, hw⟩ := h.writes
  cases hu with
  | kept h =>
    subst h
    unfold ConsMayWrite
    rw [hw]
  | loaded r hfit hp ha hh hs h =>
    subst h
    unfold ConsMayWrite
    rw [hw]
    rfl

/-- What the consumer never writes, a load included (10_state R58). -/
theorem ConsEffect.unwritten {s t : State} (h : ConsEffect s t) :
    t.started = s.started ∧ t.region = s.region ∧ t.hasSlc = s.hasSlc ∧ t.mapCpu = s.mapCpu ∧ t.mapPpu = s.mapPpu ∧
      t.paused = s.paused ∧ t.sphase = s.sphase ∧ t.pwaitRet = s.pwaitRet ∧ t.fault = s.fault ∧ t.ackVal = s.ackVal ∧
      t.hostRefused = s.hostRefused ∧ t.consFail = s.consFail ∧ t.ctlStatus = s.ctlStatus ∧ t.plat = s.plat := by
  rw [h.mayWrite]
  simp only [and_self]

/-- What the consumer writes only by a load that was applied (44_events R235). -/
theorem ConsEffect.engine {s t : State} (h : ConsEffect s t) (hn : t.snapStatus ≠ .loaded ∨ s.cphase ≠ CPhase.loadAck) :
    t.cpu = s.cpu ∧ t.ppu = s.ppu ∧ t.mapper = s.mapper ∧ t.dev = s.dev ∧ t.quota = s.quota ∧
      t.drainPending = s.drainPending ∧ t.cpuCyc = s.cpuCyc ∧ t.ppuCyc = s.ppuCyc ∧ t.frameSeq = s.frameSeq ∧
      t.nmiLatch = s.nmiLatch ∧ t.nmiPrev = s.nmiPrev ∧ t.openBusCpu = s.openBusCpu ∧ t.openBusPpu = s.openBusPpu := by
  obtain ⟨u, hu, hw⟩ := h.writes
  obtain rfl := hu.eq_of_not_loaded hn
  rw [hw]
  simp only [and_self]

/-- The consumer moves from neither C_IDLE nor C_HALT (44_events R221, R236), and to a code of the table that is not C_IDLE. -/
theorem ConsCase.cphase {s t : State} (h : ConsCase s t) :
    t = s ∨ s.cphase ≠ CPhase.idle ∧ s.cphase ≠ CPhase.halt ∧ t.cphase ≠ CPhase.idle ∧ t.cphase.toNat ≤ 4 := by
  cases h with
  | stay h => exact .inl h
  | quit hp hr h =>
    right
    subst h
    simp [hp]
  | entry e rest hp hr he hroom h =>
    right
    have k : EntryCase e { s with evq := rest } t := h ▸ entryCase e _
    clear h
    cases k <;> subst t <;> simp [hp]
  | abort hp hh h =>
    subst h
    right
    rcases hp with hp | hp <;> simp [hp, abortHandshake]
  | save hp ha hh h =>
    right
    rw [finishSave_eq] at h
    subst h
    simp [hp]
  | load hp ha hh h =>
    right
    rcases finishLoad_cases s with ⟨code, hc, k⟩ | ⟨r, hfit, k⟩ <;> rw [k, endHandshake_eq] at h <;> subst h <;> simp [hp]

/-- CUR_EV after a consumer step: the entry of the handshake the consumer now waits for, none elsewhere (44_events R227, R228,
R234, R235). -/
theorem ConsCase.curEv {s t : State} (h : ConsCase s t) (hs : CurEvSound s) : CurEvSound t := by
  have fetching : s.cphase = CPhase.fetch → s.curEv = none := fun hp => hs.other (by simp [hp]) (by simp [hp])
  have idle : ∀ {u : State}, u.cphase ≠ CPhase.saveAck → u.cphase ≠ CPhase.loadAck → u.curEv = none → CurEvSound u :=
    fun h1 h2 h3 => ⟨fun k => absurd k h1, fun k => absurd k h2, fun _ _ => h3⟩
  cases h with
  | stay h => exact h ▸ hs
  | quit hp hr h => subst h; exact idle (by simp) (by simp) (fetching hp)
  | entry e rest hp hr he hroom h =>
    have k : EntryCase e { s with evq := rest } t := h ▸ entryCase e _
    clear h
    cases k with
    | save hd h => subst h; exact ⟨fun _ => rfl, fun k => absurd k (by simp), fun k => absurd rfl k⟩
    | load img hd h =>
      subst h
      exact ⟨fun k => absurd k (by simp), fun _ => ⟨img, rfl⟩, fun _ k => absurd rfl k⟩
    | _ => subst t; exact idle (by simp [hp]) (by simp [hp]) (fetching hp)
  | abort hp hh h => subst h; exact idle (by simp [abortHandshake]) (by simp [abortHandshake]) rfl
  | save hp ha hh h =>
    rw [finishSave_eq] at h
    subst h
    exact idle (by simp) (by simp) rfl
  | load hp ha hh h =>
    rcases finishLoad_cases s with ⟨code, hc, k⟩ | ⟨r, hfit, k⟩ <;> rw [k, endHandshake_eq] at h <;> subst h <;>
      exact idle (by simp) (by simp) rfl

/-! ## What a control word does -/

/-- `t` is `s` but for the fields the writer table gives the control words (10_state R58). -/
def CtlWrites (s t : State) : Prop :=
  t = { s with
    running := t.running, started := t.started, quota := t.quota, region := t.region, hasSlc := t.hasSlc
    paused := t.paused, sphase := t.sphase, drainPending := t.drainPending, cpuCyc := t.cpuCyc, ppuCyc := t.ppuCyc
    frameSeq := t.frameSeq, fault := t.fault, nmiLatch := t.nmiLatch, nmiPrev := t.nmiPrev
    mapCpu := t.mapCpu, mapPpu := t.mapPpu, ctrl0 := t.ctrl0, ctrl1 := t.ctrl1, cphase := t.cphase
    consFail := t.consFail, ctlStatus := t.ctlStatus, cpu := t.cpu, ppu := t.ppu, mapper := t.mapper, dev := t.dev
    out := t.out, ctlRdata := t.ctlRdata }

theorem CtlCase.writes {s t : State} (h : CtlCase s t) : CtlWrites s t := by
  cases h with
  | mapAdd sp dev lo hi hb hdev hk hr ha hl h => subst h; cases sp <;> rfl
  | _ => subst t; rfl

/-- A control word that is not BUSY comes before START: once STARTED it changes its own result alone, or it is the fatal entry
of SINK_FATAL (46_lifecycle R280-R285). -/
theorem CtlCase.afterStart {s t : State} (h : CtlCase s t) (hs : s.started = true) :
    t = { s with ctlStatus := t.ctlStatus, ctlRdata := t.ctlRdata } ∨
      t = { fatalEntry .sinkFailure s with ctlStatus := .ok } := by
  have busy : s.busy ≠ false := fun k => absurd hs (by simp [((busy_false_iff s).1 k).2])
  cases h with
  | status code h => subst h; exact .inl rfl
  | read v h => subst h; exact .inl rfl
  | illegal h => subst h; exact .inl rfl
  | sinkFatal hr h => exact .inr h
  | config r f hb h => exact absurd hb busy
  | failed code hb h => exact absurd hb busy
  | mapAdd sp dev lo hi hb => exact absurd hb busy
  | reset hb h => exact absurd hb busy
  | start hb h => exact absurd hb busy

/-- A control word keeps the first fault, never takes a construction failure back, and only emits. -/
theorem CtlCase.sticky {s t : State} (h : CtlCase s t) :
    (s.fault ≠ .none → t.fault = s.fault) ∧ (s.consFail = true → t.consFail = true) ∧ ∃ l, t.out = s.out ++ l := by
  cases h with
  | failed code hb h => subst h; exact ⟨fun _ => rfl, fun _ => rfl, out_append_none s⟩
  | mapAdd sp dev lo hi hb hdev hk hr ha hl h => subst h; simp
  | sinkFatal hr h => subst h; exact ⟨fun k => if_neg k, id, ⟨_, rfl⟩⟩
  | _ => subst t; exact ⟨fun _ => rfl, id, out_append_none s⟩

/-- What a control word never writes (10_state R58). -/
theorem CtlCase.unwritten {s t : State} (h : CtlCase s t) :
    t.stepMode = s.stepMode ∧ t.pwaitRet = s.pwaitRet ∧ t.evq = s.evq ∧ t.pq = s.pq ∧ t.curEv = s.curEv ∧
      t.ackValid = s.ackValid ∧ t.ackVal = s.ackVal ∧ t.showFps = s.showFps ∧ t.evIllegal = s.evIllegal ∧
      t.hostRefused = s.hostRefused ∧ t.snapStatus = s.snapStatus ∧ t.openBusCpu = s.openBusCpu ∧
      t.openBusPpu = s.openBusPpu ∧ t.plat = s.plat := by
  rw [h.writes]
  simp only [and_self]

/-- A control word changes, of the devices in the store, the CPU's own alone, and those before START (10_state R53). -/
theorem CtlCase.dev {s t : State} (h : CtlCase s t) :
    (s.started = true → t.dev = s.dev) ∧
      ∀ d : Byte, s.plat.kindOf d ≠ .cpuOwned → devGet t.dev d.toNat = devGet s.dev d.toNat := by
  have reset : ∀ d : Byte, s.plat.kindOf d ≠ .cpuOwned →
      devGet (resetDevices s.plat s.cpu s.dev) d.toNat = devGet s.dev d.toNat := fun d hd =>
    devGet_resetDevices_other _ _ _ _ fun e he => BitVec.eq_of_toNat_eq he ▸ hd
  have after : s.busy = false → s.started = true → t.dev = s.dev := fun hb hs => by simp [State.busy, hs] at hb
  cases h with
  | reset hb h => subst h; exact ⟨after hb, reset⟩
  | start hb h => subst h; exact ⟨after hb, reset⟩
  | mapAdd sp dev lo hi hb hdev hk hr ha hl h => subst h; simp
  | _ => subst t; exact ⟨fun _ => rfl, fun _ _ => rfl⟩

/-! ## The host's event port -/

/-- A push is refused, or appended with no framebuffer and a tag that is not the scheduler's (44_events R237). -/
theorem hostPush_cases (w : BitVec 32) (img : Option Image) (s : State) :
    hostPush w img s = { s with hostRefused := true } ∨
      (w.extractLsb' 28 4 ≠ 0x1#4 ∧ hostPush w img s = { s with evq := s.evq ++ [⟨w, none, img⟩] }) := by
  unfold hostPush
  split
  · exact .inl rfl
  · rename_i h
    exact .inr ⟨fun k => h (.inl k), rfl⟩

end Sys2Proof.Machine

/-!
The claims about the state: what every step keeps, the writer table, the queues, the power-on state and the register map.
-/
namespace Sys2Proof.Machine

/-! ## O52: the exact ratio -/

/-- The ratio and the bound read CPU_CYC, PPU_CYC, QUOTA and REGION alone. -/
theorem RatioExact.of_same {s t : State} (h : RatioExact s) (hr : t.region = s.region) (hc : t.cpuCyc = s.cpuCyc)
    (hp : t.ppuCyc = s.ppuCyc) (hq : t.quota = s.quota) : RatioExact t := by
  unfold RatioExact State.divNum at *
  rwa [hr, hc, hp, hq]

/-- With nothing counted the ratio holds for either region. -/
theorem ratioExact_of_zero {t : State} (hc : t.cpuCyc = 0) (hp : t.ppuCyc = 0) (hq : t.quota = 0) : RatioExact t := by
  unfold RatioExact
  simp [hc, hp, hq]

/-- The credit of a CPU step: both sides grow by `n × DIV_NUM`, and QUOTA, below 5 before, keeps its bound, so that it does not
wrap (42_scheduler R182). -/
theorem RatioExact.credit {s t : State} {n : BitVec 16} (h : RatioExact s) (hlow : s.quota.toNat < 5)
    (hr : t.region = s.region) (hc : t.cpuCyc = s.cpuCyc + n.setWidth 64) (hp : t.ppuCyc = s.ppuCyc)
    (hq : t.quota = s.quota + BitVec.ofNat 32 (n.toNat * s.divNum)) : RatioExact t := by
  have hdiv : t.divNum = s.divNum := congrArg Config.divNum hr
  have hn : n.toNat * s.divNum ≤ 65535 * s.divNum := Nat.mul_le_mul_right _ (by omega)
  have hd := divNum_le s
  have hqn : t.quota.toNat = s.quota.toNat + n.toNat * s.divNum := by
    rw [hq, BitVec.toNat_add, BitVec.toNat_ofNat]
    omega
  have hcn : t.cpuCyc.toNat ≡ s.cpuCyc.toNat + n.toNat [MOD 2 ^ 64] := by
    rw [hc, BitVec.toNat_add, BitVec.toNat_setWidth, Nat.mod_eq_of_lt (by omega : n.toNat < 2 ^ 64)]
    exact Nat.mod_modEq _ _
  obtain ⟨hratio, hbound⟩ := h
  refine ⟨?_, by rw [hqn, hdiv]; omega⟩
  rw [hdiv, hp, hqn, ← Nat.add_assoc]
  calc t.cpuCyc.toNat * s.divNum
      ≡ (s.cpuCyc.toNat + n.toNat) * s.divNum [MOD 2 ^ 64] := hcn.mul_right _
    _ = s.cpuCyc.toNat * s.divNum + n.toNat * s.divNum := Nat.add_mul _ _ _
    _ ≡ s.ppuCyc.toNat * 5 + s.quota.toNat + n.toNat * s.divNum [MOD 2 ^ 64] := Nat.ModEq.add_right _ hratio

/-- The payment of one PPU cycle: PPU_CYC grows by one and QUOTA, at least 5 before, shrinks by 5. -/
theorem RatioExact.pay {s t : State} (h : RatioExact s) (hhigh : 5 ≤ s.quota.toNat) (hr : t.region = s.region)
    (hc : t.cpuCyc = s.cpuCyc) (hp : t.ppuCyc = s.ppuCyc + 1) (hq : t.quota = s.quota - 5) : RatioExact t := by
  have hdiv : t.divNum = s.divNum := congrArg Config.divNum hr
  have hqn : t.quota.toNat = s.quota.toNat - 5 := by
    rw [hq]
    bv_omega
  have hpn : t.ppuCyc.toNat = (s.ppuCyc.toNat + 1) % 2 ^ 64 := by
    rw [hp, BitVec.toNat_add]
    rfl
  obtain ⟨hratio, hbound⟩ := h
  refine ⟨?_, by rw [hqn, hdiv]; omega⟩
  rw [hdiv, hc, hpn, hqn, hratio]
  omega

/-- A record that passed the checks brings counters in the ratio (45_snapshot R263). -/
theorem ratioExact_applyRecord {r : SnapRecord} {s : State} (h : recordFits s.region r = true) :
    RatioExact (applyRecord r s) := (recordFits_iff s.region r).1 h

/-- The ratio after a scheduler step. -/
theorem SchedCase.ratioExact {s t : State} (h : SchedCase s t) (hs : RatioExact s) : RatioExact t := by
  have hr : t.region = s.region := by rw [h.effect.writes]
  cases h.counters with
  | same hc hp hq => exact hs.of_same hr hc hp hq
  | credit n hlow hc hp hq => exact hs.credit hlow hr hc hp hq
  | pay hhigh hc hp hq => exact hs.pay hhigh hr hc hp hq

/-- The ratio after a consumer step. -/
theorem ConsCase.ratioExact {s t : State} (h : ConsCase s t) (hs : RatioExact s) : RatioExact t := by
  obtain ⟨u, hu, hw⟩ := h.effect.writes
  have hu : RatioExact u := by
    cases hu with
    | kept h => exact h ▸ hs
    | loaded r hfit hp ha hh hst h => exact h ▸ ratioExact_applyRecord hfit
  exact hu.of_same (by rw [hw]) (by rw [hw]) (by rw [hw]) (by rw [hw])

/-- The ratio after a control word: CONFIG changes DIV_NUM only where nothing has been counted yet. -/
theorem CtlCase.ratioExact {s t : State} (h : CtlCase s t) (hl : Lifecycle s) (hs : RatioExact s) : RatioExact t := by
  cases h with
  | config region hasSlc hb h =>
    obtain ⟨-, -, -, -, -, hq, hc, hp⟩ := hl.preStart ((busy_false_iff s).1 hb).2
    subst h
    exact ratioExact_of_zero hc hp hq
  | reset hb h => subst h; exact ratioExact_of_zero rfl rfl rfl
  | start hb h => subst h; exact ratioExact_of_zero rfl rfl rfl
  | mapAdd sp dev lo hi hb hdev hk hr ha hl h => subst h; exact hs.of_same (by simp) (by simp) (by simp) (by simp)
  | _ => subst t; exact hs.of_same rfl rfl rfl rfl

/-- Settles O52: a CPU step credits and a PPU cycle pays both sides alike, a load checks the ratio, and REGION changes only where
nothing has been counted. -/
theorem ratioKept : Obligations.RatioKept := by
  intro s t hl hs h
  refine step_ind (P := fun s t => Lifecycle s → RatioExact s → RatioExact t) ?_ ?_ ?_ ?_ ?_ ?_ ?_ ?_ h hl hs
  · exact fun s t h _ hs => h.ratioExact hs
  · exact fun s t h _ hs => h.ratioExact hs
  · exact fun s t h hl hs => h.ratioExact hl hs
  · exact fun s u v hu _ _ hs => hs.of_same hu.region hu.cpuCyc hu.ppuCyc hu.quota
  · intro s w img _ hs
    rcases hostPush_cases w img s with k | ⟨-, k⟩ <;> rw [k] <;> exact hs
  · exact fun s _ hs => hs
  · exact fun s t _ _ _ h hl hs => h ⟨hl.preStart, hl.running, hl.faulted⟩ hs
  · exact fun s t h hl hs => h ⟨hl.preStart, hl.running, hl.faulted⟩ hs

/-! ## O46: the writer table -/

/-- A queue is what was taken from its head and what is left. -/
theorem exists_taken_append {α : Type} {l m : List α} (h : m = l ∨ m = l.tail) : ∃ p, l = p ++ m := by
  rcases h with rfl | rfl
  · exact ⟨[], rfl⟩
  · exact ⟨l.take 1, by cases l <;> rfl⟩

/-- Settles O46: each agent's column of the writer table is read off the record of the fields its steps write. -/
theorem writerTable : Obligations.WriterTable := by
  intro s t i h
  refine ⟨fun hd => ?_, fun hd => ?_, fun c hd => ?_⟩
  · have e := (schedCase_of_exec hd h).effect
    obtain ⟨l, -, -, hl⟩ := e.evq
    obtain ⟨h1, h2, h3, h4, h5, h6, h7, h8, h9, h10, h11, h12, h13, h14, h15, h16, -⟩ := e.unwritten
    exact ⟨h1, h2, h3, h4, h5, h6, h7, h8, h9, h10, h11, h12, h13, h14, h15, h16, e.running, e.ackValid, ⟨l, hl⟩,
      exists_taken_append e.pq⟩
  · have e := (consCase_of_exec hd h).effect
    obtain ⟨l, -, -, hl⟩ := e.pq
    obtain ⟨h1, h2, h3, h4, h5, h6, h7, h8, h9, h10, h11, h12, h13, -⟩ := e.unwritten
    have hev : ∃ p, s.evq = p ++ t.evq := exists_taken_append (e.evq.imp id fun ⟨_, k⟩ => by rw [k, List.tail_cons])
    exact ⟨h1, h2, h3, h4, h5, h6, h7, h8, h9, h10, h11, h12, h13, e.running, e.ackValid, hev, ⟨l, hl⟩, e.engine⟩
  · have k := ctlCase_of_exec hd h
    obtain ⟨h1, h2, h3, h4, h5, h6, h7, h8, h9, h10, h11, h12, h13, -⟩ := k.unwritten
    exact ⟨h1, h2, h3, h4, h5, h6, h7, h8, h9, h10, h11, h12, h13, k.dev⟩

/-! ## O47: what is never undone -/

/-- The scheduler does not step in IDLE or HALT (42_scheduler R171, R178). -/
theorem SchedCase.halted {s t : State} (h : SchedCase s t) (hs : s.sphase = SPhase.halt) : t.sphase = SPhase.halt := by
  rcases h.sphase with rfl | ⟨-, k, -⟩
  · exact hs
  · exact absurd hs k

theorem ConsCase.halted {s t : State} (h : ConsCase s t) (hs : s.cphase = CPhase.halt) : t.cphase = CPhase.halt := by
  rcases h.cphase with rfl | ⟨-, k, -⟩
  · exact hs
  · exact absurd hs k

/-- A step from `s` to `t` undoes nothing of the run's history: STARTED, FAULT, the sticky bits, the end of the run, the halted
sequencers, the outputs. -/
def HistoryKept (s t : State) : Prop :=
  (s.started = true → t.started = true) ∧ (s.fault ≠ .none → t.fault = s.fault) ∧
    (s.evIllegal = true → t.evIllegal = true) ∧ (s.hostRefused = true → t.hostRefused = true) ∧
    (s.consFail = true → t.consFail = true) ∧ (s.started = true → s.running = false → t.running = false) ∧
    (s.started = true → s.sphase = SPhase.halt → t.sphase = SPhase.halt) ∧
    (s.started = true → s.cphase = CPhase.halt → t.cphase = CPhase.halt) ∧ ∃ l, t.out = s.out ++ l

theorem HistoryKept.refl (s : State) : HistoryKept s s :=
  ⟨id, fun _ => rfl, id, id, id, fun _ => id, fun _ => id, fun _ => id, out_append_none s⟩

/-- An agent that only stops the run never starts it again. -/
theorem running_false_of_imp {a b : Bool} (h : b = true → a = true) (ha : a = false) : b = false := by
  cases b
  · rfl
  · exact absurd (h rfl) (by simp [ha])

theorem SchedCase.historyKept {s t : State} (h : SchedCase s t) : HistoryKept s t := by
  have e := h.effect
  obtain ⟨hst, -, -, -, -, -, -, -, hcp, -, -, hev, hho, hco, -⟩ := e.unwritten
  exact ⟨hst.trans, fun k => e.fault.resolve_right fun j => k j.1, hev.trans, hho.trans, hco.trans,
    fun _ => running_false_of_imp e.running, fun _ => h.halted, fun _ => hcp.trans, e.out⟩

theorem ConsCase.historyKept {s t : State} (h : ConsCase s t) : HistoryKept s t := by
  have e := h.effect
  obtain ⟨hst, -, -, -, -, -, hsp, -, hfa, -, hho, hco, -⟩ := e.unwritten
  exact ⟨hst.trans, fun _ => hfa, e.evIllegal, hho.trans, hco.trans, fun _ => running_false_of_imp e.running,
    fun _ => hsp.trans, fun _ => h.halted, e.out⟩

theorem CtlCase.historyKept {s t : State} (h : CtlCase s t) : HistoryKept s t := by
  obtain ⟨hfault, hcons, hout⟩ := h.sticky
  obtain ⟨-, -, -, -, -, -, -, -, hev, hho, -⟩ := h.unwritten
  have after : s.started = true → t.started = s.started ∧ (s.running = false → t.running = false) ∧
      t.sphase = s.sphase ∧ t.cphase = s.cphase := fun hs => by
    rcases h.afterStart hs with k | k <;> rw [k] <;> simp
  exact ⟨fun hs => (after hs).1.trans hs, hfault, hev.trans, hho.trans, hcons, fun hs => (after hs).2.1,
    fun hs => (after hs).2.2.1.trans, fun hs => (after hs).2.2.2.trans, hout⟩

/-- Settles O47: sticky bits are only set, the halted sequencers have no step, and after START no command sets RUNNING. -/
theorem neverUndone : Obligations.NeverUndone := by
  intro s t h
  refine step_ind (P := HistoryKept) ?_ ?_ ?_ ?_ ?_ ?_ ?_ ?_ h
  · exact fun s t h => h.historyKept
  · exact fun s t h => h.historyKept
  · exact fun s t h => h.historyKept
  · intro s u v hu _
    obtain ⟨_, _, _, _, _, rfl⟩ := hu.fields
    exact HistoryKept.refl s
  · intro s w img
    rcases hostPush_cases w img s with k | ⟨-, k⟩ <;> rw [k]
    · exact ⟨id, fun _ => rfl, id, fun _ => rfl, id, fun _ => id, fun _ => id, fun _ => id, out_append_none s⟩
    · exact HistoryKept.refl s
  · exact HistoryKept.refl
  · exact fun s t _ _ _ h => h
  · exact fun s t h => h

/-! ## O48: what is fixed -/

/-- Settles O48: no agent writes the platform, and the commands that write the ratio and the maps are BUSY after START. -/
theorem configurationFixed : Obligations.ConfigurationFixed := by
  intro s t h
  refine step_ind (P := fun s t => t.plat = s.plat ∧ (s.started = true → t.region = s.region ∧ t.hasSlc = s.hasSlc ∧
    t.mapCpu = s.mapCpu ∧ t.mapPpu = s.mapPpu)) ?_ ?_ ?_ ?_ ?_ ?_ ?_ ?_ h
  · intro s t h
    obtain ⟨-, -, hr, hs, hc, hp, -, -, -, -, -, -, -, -, -, -, hplat⟩ := h.effect.unwritten
    exact ⟨hplat, fun _ => ⟨hr, hs, hc, hp⟩⟩
  · intro s t h
    obtain ⟨-, hr, hs, hc, hp, -, -, -, -, -, -, -, -, hplat⟩ := h.effect.unwritten
    exact ⟨hplat, fun _ => ⟨hr, hs, hc, hp⟩⟩
  · intro s t h
    refine ⟨by rw [h.writes], fun hs => ?_⟩
    rcases h.afterStart hs with k | k <;> rw [k] <;> simp
  · exact fun s u v hu _ => ⟨hu.plat, fun _ => ⟨hu.region, hu.hasSlc, hu.mapCpu, hu.mapPpu⟩⟩
  · intro s w img
    rcases hostPush_cases w img s with k | ⟨-, k⟩ <;> rw [k] <;> simp
  · exact fun s => ⟨rfl, fun _ => ⟨rfl, rfl, rfl, rfl⟩⟩
  · exact fun s t _ _ _ h => h
  · exact fun s t h => h

/-! ## O49: the queues -/

/-- `m` is the queue `l` with at most one entry appended at its tail, or without its head (10_state R38, R39). -/
def FifoStep {α : Type} (l m : List α) : Prop := (∃ k, k.length ≤ 1 ∧ m = l ++ k) ∨ ∃ e, l = e :: m

theorem FifoStep.of_eq {α : Type} {l m : List α} (h : m = l) : FifoStep l m := .inl ⟨[], by simp, by simp [h]⟩

theorem FifoStep.of_tail {α : Type} (l : List α) : FifoStep l l.tail := by
  cases l with
  | nil => exact .of_eq rfl
  | cons e rest => exact .inr ⟨e, rfl⟩

/-- Settles O49: the scheduler appends to EVQ and takes from PQ, the consumer the other way round, the host appends to EVQ. -/
theorem queuesAreFifos : Obligations.QueuesAreFifos := by
  intro s t h
  refine step_ind (P := fun s t => FifoStep s.evq t.evq ∧ FifoStep s.pq t.pq) ?_ ?_ ?_ ?_ ?_ ?_ ?_ ?_ h
  · intro s t h
    obtain ⟨l, hle, -, hev⟩ := h.effect.evq
    refine ⟨.inl ⟨l, hle, hev⟩, ?_⟩
    rcases h.effect.pq with k | k
    · exact .of_eq k
    · exact k ▸ .of_tail s.pq
  · intro s t h
    obtain ⟨l, hle, -, hpq⟩ := h.effect.pq
    exact ⟨h.effect.evq.elim .of_eq .inr, .inl ⟨l, hle, hpq⟩⟩
  · intro s t h
    obtain ⟨-, -, hev, hpq, -⟩ := h.unwritten
    exact ⟨.of_eq hev, .of_eq hpq⟩
  · exact fun s u v hu _ => ⟨.of_eq hu.evq, .of_eq hu.pq⟩
  · intro s w img
    rcases hostPush_cases w img s with k | ⟨-, k⟩ <;> rw [k]
    · exact ⟨.of_eq rfl, .of_eq rfl⟩
    · exact ⟨.inl ⟨_, by simp, rfl⟩, .of_eq rfl⟩
  · exact fun s => ⟨.of_eq rfl, .of_eq rfl⟩
  · exact fun s t _ _ _ h => h
  · exact fun s t h => h

/-! ## O51: the lifecycle -/

/-- Both invariants of O51. -/
def Legal (s : State) : Prop := CodesLegal s ∧ Lifecycle s

theorem Lifecycle.not_started {s : State} (h : Lifecycle s) (hr : s.running = true) : s.started = true := by
  cases hs : s.started
  · simp [(h.preStart hs).1] at hr
  · rfl

theorem SchedCase.legal {s t : State} (h : SchedCase s t) (hs : Legal s) : Legal t := by
  obtain ⟨⟨hsp, hcp⟩, hl⟩ := hs
  have e := h.effect
  obtain ⟨hst, -, -, -, -, -, -, -, hc, -⟩ := e.unwritten
  rcases h.sphase with rfl | ⟨hidle, -, hidle', hle⟩
  · exact ⟨⟨hsp, hcp⟩, hl⟩
  refine ⟨⟨hle, hc ▸ hcp⟩, ?_, fun k => ⟨hidle', hc ▸ (hl.running (hst ▸ k)).2⟩, fun hf => ?_⟩
  · intro k
    obtain ⟨-, -, hi, -⟩ := hl.preStart (hst ▸ k)
    exact absurd hi hidle
  · rcases e.fault with k | ⟨-, k⟩
    · exact running_false_of_imp e.running (hl.faulted (k ▸ hf))
    · exact k

theorem ConsCase.legal {s t : State} (h : ConsCase s t) (hs : Legal s) : Legal t := by
  obtain ⟨⟨hsp, hcp⟩, hl⟩ := hs
  have e := h.effect
  obtain ⟨hst, -, -, -, -, -, hp, -, hfa, -⟩ := e.unwritten
  rcases h.cphase with rfl | ⟨hidle, -, hidle', hle⟩
  · exact ⟨⟨hsp, hcp⟩, hl⟩
  refine ⟨⟨hp ▸ hsp, hle⟩, ?_, fun k => ⟨hp ▸ (hl.running (hst ▸ k)).1, hidle'⟩, fun hf => ?_⟩
  · intro k
    obtain ⟨-, -, -, hi, -⟩ := hl.preStart (hst ▸ k)
    exact absurd hi hidle
  · exact running_false_of_imp e.running (hl.faulted (hfa ▸ hf))

theorem CtlCase.legal {s t : State} (h : CtlCase s t) (hs : Legal s) : Legal t := by
  obtain ⟨⟨hsp, hcp⟩, hl⟩ := hs
  cases h with
  | mapAdd sp dev lo hi hb hdev hk hr ha hlen h =>
    subst h
    cases sp <;> exact ⟨⟨hsp, hcp⟩, hl.preStart, hl.running, hl.faulted⟩
  | reset hb h =>
    subst h
    refine ⟨⟨hsp, hcp⟩, fun k => ?_, hl.running, hl.faulted⟩
    obtain ⟨hr, hf, hs, hc, hq, -⟩ := hl.preStart k
    exact ⟨hr, hf, hs, hc, hq, rfl, rfl, rfl⟩
  | start hb h =>
    obtain ⟨-, hf, -⟩ := hl.preStart ((busy_false_iff s).1 hb).2
    subst h
    exact ⟨⟨by simp, by simp⟩, nofun, fun _ => ⟨by simp, by simp⟩, fun k => absurd hf k⟩
  | sinkFatal hr h =>
    have hst := hl.not_started hr
    subst h
    exact ⟨⟨hsp, hcp⟩, fun k => by simp [hst] at k, hl.running, fun _ => rfl⟩
  | _ => subst t; exact ⟨⟨hsp, hcp⟩, hl.preStart, hl.running, hl.faulted⟩

/-- Settles O51: before START no sequencer has a step, and after it each moves among the codes of its table. -/
theorem lifecycleKept : Obligations.LifecycleKept := by
  intro s t hc hl h
  refine step_ind (P := fun s t => Legal s → Legal t) ?_ ?_ ?_ ?_ ?_ ?_ ?_ ?_ h ⟨hc, hl⟩
  · exact fun s t h => h.legal
  · exact fun s t h => h.legal
  · exact fun s t h => h.legal
  · rintro s u v hu - ⟨hc, hl⟩
    obtain ⟨_, _, _, _, _, rfl⟩ := hu.fields
    exact ⟨hc, hl.preStart, hl.running, hl.faulted⟩
  · rintro s w img ⟨hc, hl⟩
    rcases hostPush_cases w img s with k | ⟨-, k⟩ <;> rw [k] <;> exact ⟨hc, hl.preStart, hl.running, hl.faulted⟩
  · exact fun s => id
  · exact fun s t _ _ _ h k => h ⟨k.1, k.2.preStart, k.2.running, k.2.faulted⟩
  · exact fun s t h k => h ⟨k.1, k.2.preStart, k.2.running, k.2.faulted⟩

/-! ## O55: QUOTA in DRAIN and PCHECK -/

theorem SchedCase.quotaSettled {s t : State} (h : SchedCase s t) (hs : QuotaSettled s) : QuotaSettled t := by
  intro k
  obtain ⟨hq, hlow | hp⟩ := h.settles k
  · rwa [hq]
  · rw [hq]
    exact hs hp

/-- An acknowledged load finds the scheduler in PWAIT, so that no QUOTA is written in DRAIN or PCHECK (45_snapshot R263). -/
theorem ConsCase.quotaSettled {s t : State} (h : ConsCase s t) (hh : HandshakeSound s) (hs : QuotaSettled s) :
    QuotaSettled t := by
  intro k
  obtain ⟨u, hu, hw⟩ := h.effect.writes
  cases hu with
  | kept j =>
    subst j
    rw [hw] at k ⊢
    exact hs k
  | loaded r hfit hp ha hhalt hst j =>
    have hsp : t.sphase = s.sphase := by rw [hw, j]; rfl
    have hwait : s.sphase = SPhase.pwait := by
      rcases hh.inside (.inr hp) with ⟨hn, -⟩ | ⟨-, -, hw⟩
      · simp [hn] at ha
      · exact hw.resolve_right hhalt
    simp [hsp, hwait] at k

theorem CtlCase.quotaSettled {s t : State} (h : CtlCase s t) (hs : QuotaSettled s) : QuotaSettled t := by
  cases h with
  | reset hb h => subst h; intro _; simp
  | start hb h => subst h; intro _; simp
  | mapAdd sp dev lo hi hb hdev hk hr ha hl h => subst h; cases sp <;> exact hs
  | _ => subst t; exact hs

/-- Settles O55: DRAIN is entered with less than a PPU cycle owed, and nothing raises QUOTA there. -/
theorem quotaSettledKept : Obligations.QuotaSettledKept := by
  intro s t _ hh hs h
  refine step_ind (P := fun s t => HandshakeSound s → QuotaSettled s → QuotaSettled t) ?_ ?_ ?_ ?_ ?_ ?_ ?_ ?_ h hh hs
  · exact fun s t h _ => h.quotaSettled
  · exact fun s t h => h.quotaSettled
  · exact fun s t h _ => h.quotaSettled
  · intro s u v hu _ _ hs
    obtain ⟨_, _, _, _, _, rfl⟩ := hu.fields
    exact hs
  · intro s w img _ hs
    rcases hostPush_cases w img s with k | ⟨-, k⟩ <;> rw [k] <;> exact hs
  · exact fun s _ => id
  · exact fun s t _ _ _ h hh => h ⟨hh.outside, hh.inside⟩
  · exact fun s t h hh => h ⟨hh.outside, hh.inside⟩

/-! ## O56: the address maps -/

/-- A range that MAP_ADD accepts leaves the map sound (40_bus R133). -/
theorem MapSound.append {p : Platform} {m : List MapEntry} (h : MapSound p m) {dev : Byte} {lo hi : Addr} (hdev : dev ≠ 0)
    (hk : p.hasDevice dev = true) (hr : ¬hi < lo) (ha : (m.any fun e => entryMeets e lo hi) = false)
    (hl : m.length < 32) : MapSound p (m ++ [⟨lo, hi, dev⟩]) := by
  obtain ⟨-, hranges, hapart⟩ := h
  have clear : ∀ e ∈ m, e.hi < lo ∨ hi < e.lo := by
    intro e he
    have k := List.any_eq_false.1 ha e he
    simp only [entryMeets, Bool.and_eq_true, decide_eq_true_eq, not_and_or, BitVec.not_le] at k
    exact k.symm
  refine ⟨by simp only [List.length_append, List.length_singleton]; omega, ?_, ?_⟩
  · simp only [List.forall_mem_append, List.forall_mem_singleton]
    exact ⟨hranges, BitVec.not_lt.1 hr, hdev, hk⟩
  · rw [List.pairwise_append]
    exact ⟨hapart, List.pairwise_singleton _ _, by simpa using clear⟩

theorem CtlCase.mapsSound {s t : State} (h : CtlCase s t) (hs : MapsSound s) : MapsSound t := by
  cases h with
  | mapAdd sp dev lo hi hb hdev hk hr ha hl h =>
    subst h
    cases sp with
    | cpu => exact ⟨hs.1.append hdev hk hr ha hl, hs.2⟩
    | ppu => exact ⟨hs.1, hs.2.append hdev hk hr ha hl⟩
  | _ => subst t; exact hs

/-- Maps are sound by the platform and the maps alone. -/
theorem MapsSound.of_same {s t : State} (hs : MapsSound s) (hp : t.plat = s.plat) (hc : t.mapCpu = s.mapCpu)
    (hm : t.mapPpu = s.mapPpu) : MapsSound t := by
  unfold MapsSound at *
  rwa [hp, hc, hm]

/-- Settles O56: MAP_ADD alone writes a map, and it checks every condition first. -/
theorem mapsKept : Obligations.MapsKept := by
  intro s t hs h
  refine step_ind (P := fun s t => MapsSound s → MapsSound t) ?_ ?_ ?_ ?_ ?_ ?_ ?_ ?_ h hs
  · intro s t h hs
    obtain ⟨-, -, -, -, hc, hp, -, -, -, -, -, -, -, -, -, -, hplat⟩ := h.effect.unwritten
    exact hs.of_same hplat hc hp
  · intro s t h hs
    obtain ⟨-, -, -, hc, hp, -, -, -, -, -, -, -, -, hplat⟩ := h.effect.unwritten
    exact hs.of_same hplat hc hp
  · exact fun s t h => h.mapsSound
  · exact fun s u v hu _ hs => hs.of_same hu.plat hu.mapCpu hu.mapPpu
  · intro s w img hs
    rcases hostPush_cases w img s with k | ⟨-, k⟩ <;> rw [k] <;> exact hs
  · exact fun s => id
  · exact fun s t _ _ _ h => h
  · exact fun s t h => h

/-! ## O57: the queues' entries -/

/-- Appending sound entries keeps the queues sound; so does losing some. -/
theorem QueuesSound.of_fields {s t : State} (hs : QueuesSound s) (hp : t.plat = s.plat)
    (he : ∀ e ∈ t.evq, e ∈ s.evq ∨ EntrySound s.plat e)
    (hq : ∀ q ∈ t.pq, q ∈ s.pq ∨ ∃ i, decodePq q = .instr i) : QueuesSound t :=
  ⟨fun e k => hp ▸ (he e k).elim (hs.1 e) id, fun q k => (hq q k).elim (hs.2 q) id⟩

theorem SchedCase.queuesSound {s t : State} (h : SchedCase s t) (hs : QueuesSound s) : QueuesSound t := by
  have e := h.effect
  obtain ⟨l, -, hl, hev⟩ := e.evq
  refine hs.of_fields (by rw [e.writes]) (fun e k => ?_) fun q k => .inl ?_
  · rw [hev, List.mem_append] at k
    exact k.imp_right (hl e)
  · rcases e.pq with j | j <;> rw [j] at k
    · exact k
    · exact List.mem_of_mem_tail k

theorem ConsCase.queuesSound {s t : State} (h : ConsCase s t) (hs : QueuesSound s) : QueuesSound t := by
  have e := h.effect
  obtain ⟨l, -, hl, hpq⟩ := e.pq
  refine hs.of_fields (by rw [e.mayWrite]) (fun e' k => .inl ?_) fun q k => ?_
  · rcases e.evq with j | ⟨_, j⟩
    · exact j ▸ k
    · rw [j]
      exact List.mem_cons_of_mem _ k
  · rw [hpq, List.mem_append] at k
    exact k.imp_right (hl q)

/-- Settles O57: the block pushes FRAME entries of the platform's size and legal words, and the host cannot push a FRAME. -/
theorem queuesKept : Obligations.QueuesKept := by
  intro s t hs h
  refine step_ind (P := fun s t => QueuesSound s → QueuesSound t) ?_ ?_ ?_ ?_ ?_ ?_ ?_ ?_ h hs
  · exact fun s t h => h.queuesSound
  · exact fun s t h => h.queuesSound
  · intro s t h hs
    rw [h.writes]
    exact hs
  · intro s u v hu _ hs
    obtain ⟨_, _, _, _, _, rfl⟩ := hu.fields
    exact hs
  · intro s w img hs
    rcases hostPush_cases w img s with k | ⟨ht, k⟩ <;> rw [k]
    · exact hs
    · refine hs.of_fields rfl (fun e j => ?_) fun q => .inl
      rw [List.mem_append, List.mem_singleton] at j
      rcases j with j | rfl
      · exact .inl j
      · exact .inr (entrySound_of_fb_none rfl ht)
  · exact fun s => id
  · exact fun s t _ _ _ h => h
  · exact fun s t h => h

/-! ## O58: CUR_EV -/

theorem CurEvSound.of_same {s t : State} (hs : CurEvSound s) (hp : t.cphase = s.cphase) (he : t.curEv = s.curEv) :
    CurEvSound t := by
  refine ⟨?_, ?_, ?_⟩ <;> rw [hp, he]
  · exact hs.save
  · exact hs.load
  · exact hs.other

/-- START finds the consumer in C_IDLE, where CUR_EV is none (46_lifecycle R282). -/
theorem CtlCase.curEvSound {s t : State} (h : CtlCase s t) (hl : Lifecycle s) (hs : CurEvSound s) : CurEvSound t := by
  cases h with
  | start hb h =>
    obtain ⟨-, -, -, hc, -⟩ := hl.preStart ((busy_false_iff s).1 hb).2
    subst h
    exact ⟨fun k => by simp at k, fun k => by simp at k, fun _ _ => hs.other (by simp [hc]) (by simp [hc])⟩
  | mapAdd sp dev lo hi hb hdev hk hr ha hlen h => subst h; exact hs.of_same (by simp) (by simp)
  | _ => subst t; exact hs.of_same rfl rfl

/-- Settles O58: the consumer writes CUR_EV with CPHASE, and START changes CPHASE where CUR_EV is none. -/
theorem curEvKept : Obligations.CurEvKept := by
  intro s t hl hs h
  refine step_ind (P := fun s t => Lifecycle s → CurEvSound s → CurEvSound t) ?_ ?_ ?_ ?_ ?_ ?_ ?_ ?_ h hl hs
  · intro s t h _ hs
    obtain ⟨-, -, -, -, -, -, -, -, hp, he, -⟩ := h.effect.unwritten
    exact hs.of_same hp he
  · exact fun s t h _ => h.curEv
  · exact fun s t h => h.curEvSound
  · exact fun s u v hu _ _ hs => hs.of_same hu.cphase hu.curEv
  · intro s w img _ hs
    rcases hostPush_cases w img s with k | ⟨-, k⟩ <;> rw [k] <;> exact hs.of_same rfl rfl
  · exact fun s _ => id
  · exact fun s t _ _ _ h hl hs => h ⟨hl.preStart, hl.running, hl.faulted⟩ (hs.of_same rfl rfl)
  · exact fun s t h hl hs => h ⟨hl.preStart, hl.running, hl.faulted⟩ (hs.of_same rfl rfl)

/-! ## O60: power-on -/

/-- Settles O60: nothing runs, nothing is queued and nothing is counted at power-on. -/
theorem resetSound : Obligations.ResetSound := by
  have empty : MapSound State.reset.plat [] := ⟨by simp, by simp, .nil⟩
  refine ⟨⟨by simp [State.reset], by simp [State.reset]⟩, ⟨fun _ => ⟨rfl, rfl, rfl, rfl, rfl, rfl, rfl, rfl⟩, nofun,
    fun k => absurd rfl k⟩, ratioExact_of_zero rfl rfl rfl, ⟨nofun, by simp [State.reset]⟩,
    ⟨fun _ _ => ⟨rfl, .inl (by simp [State.reset])⟩, by simp [State.reset]⟩, by simp [QuotaSettled, State.reset],
    ⟨empty, empty⟩, ⟨by simp [State.reset], by simp [State.reset]⟩,
    ⟨by simp [State.reset], by simp [State.reset], fun _ _ => rfl⟩, ⟨rfl, devNorm_wf _⟩, ?_⟩
  simp [State.reset]

/-! ## O35, O36: the register map -/

/-- A field is read back whole at its place. -/
@[simp] theorem field_extract_same {n : Nat} (v : BitVec n) (pos : Nat) (h : pos + n ≤ 64) :
    (field v pos).extractLsb' pos n = v := by
  refine BitVec.eq_of_getLsbD_eq fun i hi => ?_
  rw [BitVec.getLsbD_extractLsb', field_getLsbD _ _ _ (by omega)]
  simp [hi]

/-- Bits outside a field are 0, one by one and as a range. -/
@[simp] theorem field_getElem_disjoint {n : Nat} (v : BitVec n) (pos i : Nat) (hi : i < 64)
    (h : i < pos ∨ pos + n ≤ i) : (field v pos)[i] = false := by
  rw [← BitVec.getLsbD_eq_getElem, field_getLsbD _ _ _ hi]
  rcases h with h | h
  · simp [show ¬pos ≤ i by omega]
  · simp [BitVec.getLsbD_of_ge v (i - pos) (by omega)]

@[simp] theorem field_extract_disjoint {n : Nat} (v : BitVec n) (pos a len : Nat) (hl : a + len ≤ 64)
    (h : a + len ≤ pos ∨ pos + n ≤ a) : (field v pos).extractLsb' a len = 0#len := by
  refine BitVec.eq_of_getLsbD_eq fun i hi => ?_
  rw [BitVec.getLsbD_extractLsb', BitVec.getLsbD_eq_getElem (by omega), field_getElem_disjoint _ _ _ _ (by omega)]
  simp

@[simp] theorem flag_getElem_same (b : Bool) (pos : Nat) (h : pos < 64) : (flag b pos)[pos] = b := by
  rw [← BitVec.getLsbD_eq_getElem, flag, field_getLsbD _ _ _ h]
  simp

@[simp] theorem flag_getElem_other (b : Bool) (pos i : Nat) (hi : i < 64) (h : i ≠ pos) : (flag b pos)[i] = false :=
  field_getElem_disjoint _ _ _ hi (by omega)

@[simp] theorem flag_extract_disjoint (b : Bool) (pos a len : Nat) (hl : a + len ≤ 64)
    (h : a + len ≤ pos ∨ pos + 1 ≤ a) : (flag b pos).extractLsb' a len = 0#len := field_extract_disjoint _ _ _ _ hl h

/-- A register as wide as its field is the field. -/
@[simp] theorem field_full (v : BitVec 64) : field v 0 = v := by simp [field]

theorem exec_csrRead_of_some {s : State} {n : BitVec 8} {v : BitVec 64} (h : s.csr n = some v) :
    exec (.ctlCsrRead n) s = .next { s with ctlRdata := v } := by
  simp only [exec, execCtlCsrRead, h]

theorem exec_csrRead_of_none {s : State} {n : BitVec 8} (h : s.csr n = none) :
    exec (.ctlCsrRead n) s = .next { s with ctlStatus := .illegal, ctlRdata := 0 } := by
  simp only [exec, execCtlCsrRead, h, illegalCtl]

/-- Settles O36: register 0 is BLOCK_ID, and the reserved numbers name no register. -/
theorem constantAndReservedCsrs : Obligations.ConstantAndReservedCsrs := by
  intro s n
  exact ⟨exec_csrRead_of_some (v := 0x4E545337) rfl, fun h => exec_csrRead_of_none (csr_reserved s n h)⟩

/-- Every number up to 0x15 and from 0x20 to 0x5F names a register (10_state R54). -/
theorem csr_implemented (s : State) (n : BitVec 8) (h : n.toNat ≤ 0x15 ∨ (0x20 ≤ n.toNat ∧ n.toNat ≤ 0x5F)) :
    ∃ v, s.csr n = some v := by
  rcases h with h | ⟨h1, h2⟩
  · obtain ⟨m, hm, rfl⟩ : ∃ m ≤ 0x15, n = BitVec.ofNat 8 m := ⟨n.toNat, h, by simp⟩
    interval_cases m <;> exact ⟨_, rfl⟩
  · rw [csr_above s n (n.toNat - 22) (by omega)]
    by_cases k : n.toNat ≤ 0x3F
    · exact ⟨_, if_pos (by omega)⟩
    · exact ⟨_, by rw [if_neg (by omega), if_pos (by omega)]⟩

/-- One entry of a map as its register shows it (10_state R54). -/
theorem mapCsr_layout (m : List MapEntry) (i : Nat) :
    (m[i]? = none → mapCsr m i = 0#64) ∧ ∀ e, m[i]? = some e → (mapCsr m i).extractLsb' 0 16 = e.hi ∧
      (mapCsr m i).extractLsb' 16 16 = e.lo ∧ (mapCsr m i).extractLsb' 32 8 = e.dev ∧
      (mapCsr m i).extractLsb' 40 23 = 0#23 ∧ (mapCsr m i).getLsbD 63 = true := by
  unfold mapCsr
  cases m[i]? with
  | none => exact ⟨fun _ => rfl, nofun⟩
  | some e =>
    refine ⟨nofun, ?_⟩
    rintro _ ⟨⟩
    simp [BitVec.extractLsb'_or]

/-- RATIO.REGION's bit as its register shows it (10_state R24). -/
theorem regionBit_getElem (r : Region) : (field (regionBit r) 16)[16] = decide (r = .pal) := by cases r <;> rfl

/-- Settles O35: each register is a union of disjoint fields, read back by the laws of `field` and `flag`. -/
theorem csrLayout : Obligations.CsrLayout := by
  intro s
  refine ⟨fun n hn => ?_, fun sp i => ?_⟩
  · obtain ⟨v, hv⟩ := csr_implemented s n hn
    refine ⟨v, exec_csrRead_of_some hv, ?run, ?sphase, ?cphase, ?stepMode, ?paused, ?quota, ?ratio, ?drain, ?cpuCyc, ?ppuCyc,
      ?frameSeq, ?nmi, ?fault, ?status, ?openBus, ?ctrl, ?showFps, ?evqCount, ?pqCount, ?mapCount, ?mailbox⟩ <;>
      (rintro rfl; cases hv)
    case stepMode => cases s.stepMode <;> simp [stepModeBits]
    case ratio =>
      have hdiv : s.divNum = Config.divNum s.region := rfl
      cases hr : s.region <;> simp [BitVec.extractLsb'_or, regionBit_getElem, Config.qDen, Config.divNum, hdiv, hr]
    case nmi => simp [BitVec.extractLsb'_or, State.irqLine]
    case fault => cases s.fault <;> simp [faultBits]
    case status =>
      refine ⟨by simp, by simp, Eq.trans (b := ctlStatusBits s.ctlStatus) (by simp [BitVec.extractLsb'_or]) ?_,
        Eq.trans (b := snapStatusBits s.snapStatus) (by simp [BitVec.extractLsb'_or]) ?_, by simp,
        by simp [BitVec.extractLsb'_or]⟩
      · cases s.ctlStatus <;> rfl
      · cases s.snapStatus <;> rfl
    case evqCount => exact countWord_toNat _
    case pqCount => exact countWord_toNat _
    all_goals simp [BitVec.extractLsb'_or]
  · refine ⟨mapCsr (s.map sp) i, exec_csrRead_of_some ?_, ?_⟩
    · cases sp with
      | cpu => exact csr_mapCpu s i i.isLt
      | ppu => exact csr_mapPpu s i i.isLt
    · cases h : (s.map sp)[i.val]? with
      | none => exact (mapCsr_layout _ _).1 h
      | some e => exact (mapCsr_layout _ _).2 e h

end Sys2Proof.Machine

namespace Sys2Proof.Machine

/-! ## O41: a step runs what it decodes -/

/-- A request standing at the multiplexer is served before any agent steps (log 14). -/
theorem step_of_busReq {s : State} {b : BitVec 26} (hb : s.busReq = some b) :
    step s = exec (decodeBus b) { s with busReq := none } := by
  unfold step fetch
  rw [hb]

/-- The scheduler's turn runs the instruction of its sequencer's code (30_encoding R111). -/
theorem step_of_scheduler {s : State} {i : Instr} (hb : s.busReq = none) (ht : s.turn = .scheduler)
    (hd : decodeSphase s.sphase = .instr i) : step s = exec i s.pass := by
  unfold step fetch
  rw [hb, ht, hd]
  rfl

/-- The consumer's turn runs the instruction of its sequencer's code (30_encoding R112). -/
theorem step_of_consumer {s : State} {i : Instr} (hb : s.busReq = none) (ht : s.turn = .consumer)
    (hd : decodeCphase s.cphase = .instr i) : step s = exec i s.pass := by
  unfold step fetch
  rw [hb, ht, hd]
  rfl

/-- A host's turn that takes a legal control word runs its instruction, with the rest left at the ports. -/
theorem step_of_hostTakes_ctl {s : State} {c : BitVec 64} {port : List HostCmd} {i : Instr}
    (h : HostTakes s (.ctl c) port) (hd : decodeCtl c = .instr i) :
    step s = exec i { s.pass with hostPort := port } := by
  rw [step_of_hostTakes h, fetchCmd, hd]

/-- Settles O41: the bus request, the two sequencers and the host's port, one lemma each. -/
theorem stepRunsDecoded : Obligations.StepRunsDecoded := by
  intro s i
  refine ⟨fun b hb hd => ?bus, fun hb ht hd => step_of_scheduler hb ht hd, fun hb ht hd => step_of_consumer hb ht hd,
    fun c port h hd => step_of_hostTakes_ctl h hd⟩
  case bus =>
    obtain rfl : decodeBus b = i := Decoded.instr.inj hd
    exact step_of_busReq hb

end Sys2Proof.Machine

/-!
The encoding family (30_encoding R103-R117). Decoding what the encoder writes (O1) and encoding what the decoder reads (O2) are
proved on each interface; a word is then legal exactly when the encoder writes it, so that the tables of legal words (O3, O4)
are compared with the encoder alone, by the rows of `Laws.TableRow` and the words rebuilt from their fields.
-/
namespace Sys2Proof.Machine

/-! ## O1: decoding what the encoder writes -/

/-- A bare entry whose tag asks for no side data is its word. -/
theorem decodeEv_bareEntry {w : BitVec 32} (hf : w.extractLsb' 28 4 ≠ 0x1#4) (hi : w.extractLsb' 28 4 ≠ 0x6#4) :
    decodeEv (bareEntry w) = decodeEvWord w :=
  if_neg (not_or.2 ⟨hf, hi⟩)

/-- An event entry is read back, its side data included (30_encoding R103, R104). -/
theorem decodeEv_encode {i : Instr} {e : EvEntry} (hw : i.wellFormed = true) (h : encode i = .ev e) :
    decodeEv e = .instr i := by
  cases i with
  | evFrame seq fb =>
    cases h
    simp [decodeEv, frameEntry]
  | evSample sample =>
    cases h
    simp [decodeEv_bareEntry, decodeEvWord]
  | evInput port button down =>
    cases h
    simp [decodeEv_bareEntry, decodeEvWord, -BitVec.getLsbD_eq_getElem, inputWord_down]
  | evPause kind ack chan =>
    cases h
    have hack : ackMatchesChan ack chan = true := hw
    simp [decodeEv_bareEntry, decodeEvWord, -BitVec.getLsbD_eq_getElem, pauseEvWord_ack, hack]
  | evSetstep mode =>
    cases h
    simp [decodeEv_bareEntry, decodeEvWord]
  | evLoadstate img =>
    cases h
    simp [decodeEv]
  | evSavestate | evQuit | evFramestep | evShowfps =>
    cases h
    rfl
  | _ => cases h

/-- A pause word is read back (30_encoding R105). -/
theorem decodePq_encode {i : Instr} {q : BitVec 16} (h : encode i = .pq q) : decodePq q = .instr i := by
  cases i with
  | pqToggle ack chan | pqPause ack chan | pqUnpause ack chan =>
    cases h
    simp [decodePq, -BitVec.getLsbD_eq_getElem, pauseWord_ack]
  | pqQuitsent =>
    cases h
    rfl
  | _ => cases h

/-- A control word is read back (30_encoding R107). -/
theorem decodeCtl_encode {i : Instr} {c : BitVec 64} (h : encode i = .ctl c) : decodeCtl c = .instr i := by
  cases i with
  | ctlConfig region hasSlc =>
    cases h
    simp [decodeCtl, -BitVec.getLsbD_eq_getElem, configWord_slc, configWord_region, regionOf_bit]
  | ctlMapAdd space dev lo hi =>
    cases h
    simp [decodeCtl, -BitVec.getLsbD_eq_getElem, mapAddWord_space, spaceOf_bit]
  | ctlCsrRead n =>
    cases h
    simp [decodeCtl]
  | ctlReset | ctlStart | ctlSinkFatal =>
    cases h
    rfl
  | _ => cases h

/-- A bus request is read back, a write or a read by its `we` bit (30_encoding R110). -/
theorem decodeBus_busWord (sp : Space) (we : Bool) (addr : Addr) (v : Byte) :
    decodeBus (busWord sp we addr v) = if we then .busWr sp addr v else .busRd sp addr v := by
  simp [decodeBus, -BitVec.getLsbD_eq_getElem, busWord_we, busWord_space, spaceOf_bit]

/-- Settles O1: one lemma per interface with operands; the sequencers' codes have none. -/
theorem decodeEncode : Obligations.DecodeEncode := by
  intro i hw
  cases h : encode i with
  | ev e => exact decodeEv_encode hw h
  | pq q => exact decodePq_encode h
  | ctl c => exact decodeCtl_encode h
  | bus b =>
    cases i with
    | busRd sp addr v | busWr sp addr v =>
      cases h
      exact congrArg Decoded.instr (decodeBus_busWord ..)
    | _ => cases h
  | sphase p | cphase p => cases i <;> cases h <;> rfl

/-! ## O2: encoding what the decoder reads -/

/-- What a decoder reads behind a check of the reserved bits. -/
theorem guard_eq_instr {p : Prop} [Decidable p] {d : Decoded} {why : Illegal} {i : Instr} :
    (if p then d else .reject why) = .instr i ↔ p ∧ d = .instr i := by
  split <;> simp [*]

/-- A word read without side data is written back (30_encoding R103). -/
theorem encode_of_decodeEvWord {w : BitVec 32} {i : Instr} (h : decodeEvWord w = .instr i) :
    encode i = .ev (bareEntry w) ∧ i.wellFormed = true := by
  have bare {v : BitVec 32} (hv : v = w) : Words.ev (bareEntry v) = .ev (bareEntry w) := by rw [hv]
  unfold decodeEvWord at h
  split at h
  next tag =>
    obtain ⟨z, ⟨⟩⟩ := guard_eq_instr.1 h
    exact ⟨bare (sampleWord_rebuild w tag z), rfl⟩
  next tag =>
    obtain ⟨z, ⟨⟩⟩ := guard_eq_instr.1 h
    exact ⟨bare (inputWord_rebuild w tag z), rfl⟩
  next tag =>
    obtain ⟨⟨zh, zl⟩, h⟩ := guard_eq_instr.1 h
    split at h
    next => cases h
    next kind hk =>
      obtain ⟨hack, ⟨⟩⟩ := guard_eq_instr.1 h
      exact ⟨bare (pauseEvWord_rebuild w tag zh zl hk), hack⟩
  -- SAVESTATE, QUIT, FRAMESTEP and SHOWFPS have no operands.
  iterate 4
    next tag =>
      obtain ⟨z, ⟨⟩⟩ := guard_eq_instr.1 h
      exact ⟨bare (tagWord_rebuild w _ tag z), rfl⟩
  next tag =>
    obtain ⟨z, ⟨⟩⟩ := guard_eq_instr.1 h
    exact ⟨bare (setstepWord_rebuild w tag z), rfl⟩
  next => cases h

/-- An entry that is read is written back, its side data included (30_encoding R103, R104). -/
theorem encode_of_decodeEv {e : EvEntry} {i : Instr} (h : decodeEv e = .instr i) :
    encode i = .ev e ∧ i.wellFormed = true := by
  obtain ⟨w, fb, img⟩ := e
  cases fb with
  | none =>
    cases img with
    | none =>
      simp only [decodeEv] at h
      split at h
      · cases h
      · exact encode_of_decodeEvWord h
    | some img =>
      obtain ⟨tag, h⟩ := guard_eq_instr.1 h
      obtain ⟨z, ⟨⟩⟩ := guard_eq_instr.1 h
      exact ⟨congrArg (fun v => Words.ev ⟨v, none, some img⟩) (tagWord_rebuild w _ tag z), rfl⟩
  | some fb =>
    cases img with
    | none =>
      obtain ⟨tag, ⟨⟩⟩ := guard_eq_instr.1 h
      exact ⟨congrArg (fun v => Words.ev ⟨v, some fb, none⟩) (frameWord_rebuild w tag), rfl⟩
    | some img => cases h

/-- A pause word that is read is written back (30_encoding R105). -/
theorem encode_of_decodePq {q : BitVec 16} {i : Instr} (h : decodePq q = .instr i) :
    encode i = .pq q ∧ i.wellFormed = true := by
  unfold decodePq at h
  split at h
  next =>
    obtain ⟨rfl, ⟨⟩⟩ := guard_eq_instr.1 h
    exact ⟨rfl, rfl⟩
  next kind hk =>
    obtain ⟨z, h⟩ := guard_eq_instr.1 h
    have hq := congrArg Words.pq (pauseWord_rebuild q hk z)
    cases kind <;> cases h <;> exact ⟨hq, rfl⟩

/-- A control word that is read is written back (30_encoding R107). -/
theorem encode_of_decodeCtl {c : BitVec 64} {i : Instr} (h : decodeCtl c = .instr i) :
    encode i = .ctl c ∧ i.wellFormed = true := by
  have ctl {v : BitVec 64} (hv : v = c) : Words.ctl v = .ctl c := by rw [hv]
  unfold decodeCtl at h
  split at h
  next op =>
    obtain ⟨z, ⟨⟩⟩ := guard_eq_instr.1 h
    exact ⟨ctl (configWord_rebuild c op z), rfl⟩
  next op =>
    obtain ⟨⟨zh, zl⟩, ⟨⟩⟩ := guard_eq_instr.1 h
    exact ⟨ctl (mapAddWord_rebuild c op zh zl), rfl⟩
  -- RESET and START have no operands.
  iterate 2
    next op =>
      obtain ⟨z, ⟨⟩⟩ := guard_eq_instr.1 h
      exact ⟨ctl (opWord_rebuild c _ op z), rfl⟩
  next op =>
    obtain ⟨z, ⟨⟩⟩ := guard_eq_instr.1 h
    exact ⟨ctl (csrReadWord_rebuild c op z), rfl⟩
  next op =>
    obtain ⟨z, ⟨⟩⟩ := guard_eq_instr.1 h
    exact ⟨ctl (opWord_rebuild c _ op z), rfl⟩
  next => cases h

/-- Every bus request is written back (30_encoding R110). -/
theorem encode_decodeBus (b : BitVec 26) : encode (decodeBus b) = .bus b ∧ (decodeBus b).wellFormed = true := by
  unfold decodeBus
  split
  next we => exact ⟨congrArg Words.bus (busWord_rebuild b we), rfl⟩
  next we => exact ⟨congrArg Words.bus (busWord_rebuild b (Bool.eq_false_iff.2 we)), rfl⟩

/-- Settles O2: one lemma per interface, each word rebuilt from the fields its decoder read. -/
theorem encodeDecode : Obligations.EncodeDecode := by
  intro w i h
  cases w with
  | ev e => exact encode_of_decodeEv h
  | pq q => exact encode_of_decodePq h
  | ctl c => exact encode_of_decodeCtl h
  | bus b =>
    obtain rfl : decodeBus b = i := Decoded.instr.inj h
    exact encode_decodeBus b
  | sphase p =>
    rcases decodeSphase_cases h with ⟨rfl, rfl⟩ | ⟨rfl, rfl⟩ | ⟨rfl, rfl⟩ | ⟨rfl, rfl⟩ | ⟨rfl, rfl⟩ | ⟨rfl, rfl⟩ |
      ⟨rfl, rfl⟩ | ⟨rfl, rfl⟩ <;> exact ⟨rfl, rfl⟩
  | cphase p =>
    rcases decodeCphase_cases h with ⟨rfl, rfl⟩ | ⟨rfl, rfl⟩ | ⟨rfl, rfl⟩ | ⟨rfl, rfl⟩ | ⟨rfl, rfl⟩ <;> exact ⟨rfl, rfl⟩

/-- A word is an instruction exactly when the encoder writes it. -/
theorem decodes_iff_encoded (w : Words) : (∃ i, decode w = .instr i) ↔ ∃ i, i.wellFormed = true ∧ encode i = w := by
  constructor
  · rintro ⟨i, h⟩
    exact ⟨i, (encodeDecode w i h).symm⟩
  · rintro ⟨i, hw, rfl⟩
    exact ⟨i, decodeEncode i hw⟩

/-! ## Words by mask and match -/

/-- A field all of whose bits a mask keeps reads as in the match. -/
theorem field_of_masked {n : Nat} {w mask mtch : BitVec n} (h : w &&& mask = mtch) (pos len : Nat)
    (hm : mask.extractLsb' pos len = BitVec.allOnes len) : w.extractLsb' pos len = mtch.extractLsb' pos len := by
  rw [← h, BitVec.extractLsb'_and, hm, BitVec.and_allOnes]

/-- The tie of `ack` and `chan`, read as R104 writes it. -/
theorem ackMatchesChan_iff (ack : Bool) (chan : Byte) :
    ackMatchesChan ack chan = true ↔ (ack = true → chan ≠ 0#8) ∧ (ack = false → chan = 0#8) := by
  cases ack <;> simp [ackMatchesChan]

/-- A 2-bit code that is not the sentinel's names a kind (30_encoding R104, R105). -/
theorem exists_pauseKindOf {b : BitVec 2} (h : b ≠ 0b11#2) : ∃ k, pauseKindOf b = some k :=
  Option.ne_none_iff_exists'.1 (mt (pauseKindOf_none_iff b).1 h)

/-- No request has the sentinel's kind. -/
theorem pauseKindBits_ne (k : PauseKind) : pauseKindBits k ≠ 0b11#2 := by cases k <;> decide

/-! ## O3: legal event entries -/

/-- The entry of a well-formed event fits the row of its instruction. -/
theorem eventLegal_of_encoded {i : Instr} {e : EvEntry} (hw : i.wellFormed = true) (h : encode i = .ev e) :
    eventLegal e := by
  cases i with
  | evFrame seq fb =>
    cases h
    have row := eq_of_beq (Laws.TableRow.evFrame seq fb)
    exact ⟨by simp [frameEntry], by simp [frameEntry], .inl row⟩
  | evSample sample =>
    cases h
    have row := eq_of_beq (Laws.TableRow.evSample sample)
    exact ⟨by simp [bareEntry], by simp [bareEntry], .inr (.inl row)⟩
  | evInput port button down =>
    cases h
    have row := eq_of_beq (Laws.TableRow.evInput port button down)
    exact ⟨by simp [bareEntry], by simp [bareEntry], .inr (.inr (.inl row))⟩
  | evPause kind ack chan =>
    cases h
    have row := eq_of_beq (Laws.TableRow.evPause kind ack chan)
    refine ⟨by simp [bareEntry], by simp [bareEntry], .inr (.inr (.inr (.inl ⟨row, ?kind, ?tie⟩)))⟩
    case kind =>
      rw [bareEntry, pauseEvWord_kind]
      exact pauseKindBits_ne kind
    case tie =>
      rw [bareEntry, pauseEvWord_ack, pauseEvWord_chan]
      exact (ackMatchesChan_iff ack chan).1 hw
  | evSetstep mode =>
    cases h
    have row := eq_of_beq (Laws.TableRow.evSetstep mode)
    refine ⟨by simp [bareEntry], by simp [bareEntry], ?_⟩
    iterate 9 right
    exact row
  | evLoadstate img =>
    cases h
    refine ⟨by simp, by simp, ?_⟩
    iterate 5 right
    exact .inl rfl
  | evSavestate | evQuit | evFramestep | evShowfps =>
    cases h
    unfold eventLegal
    decide
  | _ => cases h

section
variable {e : EvEntry} (hf : e.fb.isSome = true ↔ e.word.extractLsb' 28 4 = 0x1#4)
  (hi : e.img.isSome = true ↔ e.word.extractLsb' 28 4 = 0x6#4)
include hf hi

/-- With the side data of its tag, an entry tagged FRAME has a framebuffer alone (30_encoding R104). -/
theorem entry_of_frameTag (tag : e.word.extractLsb' 28 4 = 0x1#4) : ∃ fb, e = ⟨e.word, some fb, none⟩ := by
  obtain ⟨w, fb, img⟩ := e
  obtain ⟨fb, rfl⟩ := Option.isSome_iff_exists.1 (hf.2 tag)
  obtain rfl : img = none := by simpa [tag] using hi
  exact ⟨fb, rfl⟩

/-- An entry tagged LOADSTATE has an image alone. -/
theorem entry_of_loadstateTag (tag : e.word.extractLsb' 28 4 = 0x6#4) : ∃ img, e = ⟨e.word, none, some img⟩ := by
  obtain ⟨w, fb, img⟩ := e
  obtain ⟨img, rfl⟩ := Option.isSome_iff_exists.1 (hi.2 tag)
  obtain rfl : fb = none := by simpa [tag] using hf
  exact ⟨img, rfl⟩

/-- An entry of another tag is its word. -/
theorem bareEntry_of_tag {tag : BitVec 4} (ht : e.word.extractLsb' 28 4 = tag) (h1 : tag ≠ 0x1#4) (h6 : tag ≠ 0x6#4) :
    bareEntry e.word = e := by
  obtain ⟨w, fb, img⟩ := e
  obtain rfl : fb = none := by simpa [ht, h1] using hf
  obtain rfl : img = none := by simpa [ht, h6] using hi
  rfl

end

/-- An entry that fits a row is the entry of that row's instruction, with the operands its fields hold. -/
theorem encoded_of_eventLegal {e : EvEntry} (h : eventLegal e) : ∃ i, i.wellFormed = true ∧ encode i = .ev e := by
  obtain ⟨hf, hi, h⟩ := h
  have bare {i : Instr} {v : BitVec 32} {tag : BitVec 4} (ht : e.word.extractLsb' 28 4 = tag) (h1 : tag ≠ 0x1#4)
      (h6 : tag ≠ 0x6#4) (he : encode i = .ev (bareEntry v)) (hv : v = e.word) : encode i = .ev e := by
    rw [he, hv, bareEntry_of_tag hf hi ht h1 h6]
  rcases h with h | h | h | ⟨h, hk, hack⟩ | h | h | h | h | h | h
  · have tag := field_of_masked h 28 4 rfl
    obtain ⟨fb, he⟩ := entry_of_frameTag hf hi tag
    rw [he]
    exact ⟨.evFrame _ fb, rfl, congrArg (fun v => Words.ev ⟨v, some fb, none⟩) (frameWord_rebuild _ tag)⟩
  · have tag := field_of_masked h 28 4 rfl
    exact ⟨.evSample _, rfl, bare tag (by decide) (by decide) rfl
      (sampleWord_rebuild _ tag (field_of_masked h 16 12 rfl))⟩
  · have tag := field_of_masked h 28 4 rfl
    exact ⟨.evInput _ _ _, rfl, bare tag (by decide) (by decide) rfl
      (inputWord_rebuild _ tag (field_of_masked h 5 23 rfl))⟩
  · have tag := field_of_masked h 28 4 rfl
    obtain ⟨kind, hkind⟩ := exists_pauseKindOf hk
    exact ⟨.evPause kind _ _, (ackMatchesChan_iff _ _).2 hack, bare tag (by decide) (by decide) rfl
      (pauseEvWord_rebuild _ tag (field_of_masked h 16 12 rfl) (field_of_masked h 3 5 rfl) hkind)⟩
  · exact ⟨.evSavestate, rfl, bare (congrArg _ h) (by decide) (by decide) rfl h.symm⟩
  · obtain ⟨img, he⟩ := entry_of_loadstateTag hf hi (congrArg _ h)
    rw [he, h]
    exact ⟨.evLoadstate img, rfl, rfl⟩
  · exact ⟨.evQuit, rfl, bare (congrArg _ h) (by decide) (by decide) rfl h.symm⟩
  · exact ⟨.evFramestep, rfl, bare (congrArg _ h) (by decide) (by decide) rfl h.symm⟩
  · exact ⟨.evShowfps, rfl, bare (congrArg _ h) (by decide) (by decide) rfl h.symm⟩
  · have tag := field_of_masked h 28 4 rfl
    exact ⟨.evSetstep _, rfl, bare tag (by decide) (by decide) rfl
      (setstepWord_rebuild _ tag (field_of_masked h 2 26 rfl))⟩

/-- Settles O3: an entry decodes exactly when the encoder writes it, and the encoder writes exactly the rows. -/
theorem eventLegalIffRow : Obligations.EventLegalIffRow := by
  intro e
  rw [show (∃ i, decodeEv e = .instr i) ↔ _ from decodes_iff_encoded (.ev e)]
  exact ⟨fun ⟨_, hw, h⟩ => eventLegal_of_encoded hw h, encoded_of_eventLegal⟩

/-! ## O4: legal pause words, control words and bus requests -/

/-- A word of the PQ interface fits the row of its instruction. -/
theorem pauseLegal_of_encoded {i : Instr} {q : BitVec 16} (h : encode i = .pq q) : pauseLegal q := by
  cases i with
  | pqToggle ack chan =>
    cases h
    exact .inl (eq_of_beq (Laws.TableRow.pqToggle ack chan))
  | pqPause ack chan =>
    cases h
    exact .inr (.inl (eq_of_beq (Laws.TableRow.pqPause ack chan)))
  | pqUnpause ack chan =>
    cases h
    exact .inr (.inr (.inl (eq_of_beq (Laws.TableRow.pqUnpause ack chan))))
  | pqQuitsent =>
    cases h
    exact .inr (.inr (.inr rfl))
  | _ => cases h

/-- A pause word of a request's row, rebuilt from its fields. -/
theorem pauseWord_of_row {q mtch : BitVec 16} (kind : PauseKind) (h : q &&& 0x00FB#16 = mtch)
    (hk : mtch.extractLsb' 0 2 = pauseKindBits kind) (hz : mtch.extractLsb' 3 5 = 0#5) :
    pauseWord kind (q.getLsbD 2) (q.extractLsb' 8 8) = q := by
  refine pauseWord_rebuild q ?_ ((field_of_masked h 3 5 rfl).trans hz)
  rw [field_of_masked h 0 2 rfl, hk, pauseKindOf_bits]

/-- A pause word that fits a row is the word of that row's instruction. -/
theorem encoded_of_pauseLegal {q : BitVec 16} (h : pauseLegal q) : ∃ i, i.wellFormed = true ∧ encode i = .pq q := by
  rcases h with h | h | h | h
  · exact ⟨.pqToggle _ _, rfl, congrArg _ (pauseWord_of_row .toggle h rfl rfl)⟩
  · exact ⟨.pqPause _ _, rfl, congrArg _ (pauseWord_of_row .pause h rfl rfl)⟩
  · exact ⟨.pqUnpause _ _, rfl, congrArg _ (pauseWord_of_row .unpause h rfl rfl)⟩
  · exact ⟨.pqQuitsent, rfl, congrArg _ h.symm⟩

/-- A word of the CTL interface fits the row of its instruction. -/
theorem controlLegal_of_encoded {i : Instr} {c : BitVec 64} (h : encode i = .ctl c) : controlLegal c := by
  cases i with
  | ctlConfig region hasSlc =>
    cases h
    exact .inl (eq_of_beq (Laws.TableRow.ctlConfig region hasSlc))
  | ctlMapAdd space dev lo hi =>
    cases h
    exact .inr (.inl (eq_of_beq (Laws.TableRow.ctlMapAdd space dev lo hi)))
  | ctlReset =>
    cases h
    exact .inr (.inr (.inl rfl))
  | ctlStart =>
    cases h
    exact .inr (.inr (.inr (.inl rfl)))
  | ctlCsrRead n =>
    cases h
    exact .inr (.inr (.inr (.inr (.inl (eq_of_beq (Laws.TableRow.ctlCsrRead n))))))
  | ctlSinkFatal =>
    cases h
    exact .inr (.inr (.inr (.inr (.inr rfl))))
  | _ => cases h

/-- A control word that fits a row is the word of that row's instruction. -/
theorem encoded_of_controlLegal {c : BitVec 64} (h : controlLegal c) : ∃ i, i.wellFormed = true ∧ encode i = .ctl c := by
  rcases h with h | h | h | h | h | h
  · exact ⟨.ctlConfig _ _, rfl,
      congrArg _ (configWord_rebuild c (field_of_masked h 60 4 rfl) (field_of_masked h 2 58 rfl))⟩
  · exact ⟨.ctlMapAdd _ _ _ _, rfl, congrArg _ (mapAddWord_rebuild c (field_of_masked h 60 4 rfl)
      (field_of_masked h 57 3 rfl) (field_of_masked h 32 16 rfl))⟩
  · exact ⟨.ctlReset, rfl, congrArg _ h.symm⟩
  · exact ⟨.ctlStart, rfl, congrArg _ h.symm⟩
  · exact ⟨.ctlCsrRead _, rfl,
      congrArg _ (csrReadWord_rebuild c (field_of_masked h 60 4 rfl) (field_of_masked h 8 52 rfl))⟩
  · exact ⟨.ctlSinkFatal, rfl, congrArg _ h.symm⟩

/-- The control words that decode are the rows of 30_encoding R107. -/
theorem decodeCtl_iff_controlLegal (c : BitVec 64) : (∃ i, decodeCtl c = .instr i) ↔ controlLegal c := by
  rw [show (∃ i, decodeCtl c = .instr i) ↔ _ from decodes_iff_encoded (.ctl c)]
  exact ⟨fun ⟨_, _, h⟩ => controlLegal_of_encoded h, encoded_of_controlLegal⟩

/-- The pause words that decode are the rows of 30_encoding R105. -/
theorem decodePq_iff_pauseLegal (q : BitVec 16) : (∃ i, decodePq q = .instr i) ↔ pauseLegal q := by
  rw [show (∃ i, decodePq q = .instr i) ↔ _ from decodes_iff_encoded (.pq q)]
  exact ⟨fun ⟨_, _, h⟩ => pauseLegal_of_encoded h, encoded_of_pauseLegal⟩

/-- The `we` bit of a bus request, read under the mask of its rows (30_encoding R110). -/
theorem busWe_of_masked {b mtch : BitVec 26} (h : b &&& 0x1000000#26 = mtch) : b.getLsbD 24 = mtch.getLsbD 24 := by
  simp [← h]

/-- Settles O4: the rows of the two tables are what the encoder writes, and bit 24 tells a bus write from a read. -/
theorem commandLegalIffRow : Obligations.CommandLegalIffRow := by
  refine ⟨decodePq_iff_pauseLegal, decodeCtl_iff_controlLegal, fun b => ⟨decodeBus b, rfl, fun h => ?rd, fun h => ?wr⟩⟩
  case rd => exact ⟨_, _, _, if_neg (by rw [busWe_of_masked h]; decide)⟩
  case wr => exact ⟨_, _, _, if_pos (busWe_of_masked h)⟩

/-! ## O42: an illegal control word -/

/-- A host's turn that takes a control word of no instruction reports it, with the rest left at the ports. -/
theorem step_of_hostTakes_reject {s : State} {c : BitVec 64} {port : List HostCmd} {why : Illegal}
    (h : HostTakes s (.ctl c) port) (hd : decodeCtl c = .reject why) :
    step s = .next (illegalCtl { s.pass with hostPort := port }) := by
  rw [step_of_hostTakes h, fetchCmd, hd]

/-- Settles O42: a word of no row is rejected, and a rejected word is reported and nothing else. -/
theorem illegalControlWord : Obligations.IllegalControlWord := by
  intro s c port h hc
  cases hd : decodeCtl c with
  | instr i => exact absurd ((decodeCtl_iff_controlLegal c).1 ⟨i, hd⟩) hc
  | reject why => exact step_of_hostTakes_reject h hd

/-! ## O45: only a reserved sequencer code is stuck -/

/-- Every instruction answers a next state, in every state. -/
theorem exec_answers (i : Instr) (s : State) : ∃ t, exec i s = .next t := by cases i <;> exact ⟨_, rfl⟩

/-- A step is a fault exactly when its fetch is stuck. -/
theorem step_fault_iff (s : State) (f : Fault) : step s = .fault f ↔ fetch s = .stuck f := by
  unfold step
  cases fetch s with
  | run i u =>
    obtain ⟨t, ht⟩ := exec_answers i u
    simp [ht]
  | done u => simp
  | stuck g => simp

/-- Without a stuck fetch a step answers. -/
theorem step_answers {s : State} (h : ∀ f, fetch s ≠ .stuck f) : ∃ t, step s = .next t := by
  unfold step
  cases hf : fetch s with
  | run i u => exact exec_answers i u
  | done u => exact ⟨u, rfl⟩
  | stuck f => exact absurd hf (h f)

/-- A sequencer is stuck exactly on a code of no instruction, with its own fault. -/
theorem fetchPhase_stuck_iff (d : Decoded) (f g : Fault) (s : State) :
    fetchPhase d f s = .stuck g ↔ f = g ∧ d.instr? = none := by
  cases d <;> simp [fetchPhase, Decoded.instr?]

/-- No host command is stuck: an illegal word is reported (30_encoding R109). -/
theorem fetchCmd_ne_stuck (c : HostCmd) (s : State) (f : Fault) : fetchCmd c s ≠ .stuck f := by
  cases c with
  | ctl w => cases hd : decodeCtl w <;> simp [fetchCmd, hd]
  | push w img => nofun

/-- The host is never stuck. -/
theorem fetchHost_ne_stuck (s : State) (f : Fault) : fetchHost s ≠ .stuck f := by
  unfold fetchHost
  split
  · exact fetchCmd_ne_stuck _ _ f
  · split
    · exact fetchCmd_ne_stuck _ _ f
    · nofun

/-- The reserved codes of the scheduler's sequencer (30_encoding R111). -/
theorem decodeSphase_reserved_iff (p : BitVec 4) : (decodeSphase p).instr? = none ↔ 8 ≤ p.toNat := by revert p; decide

/-- The reserved codes of the consumer's sequencer (30_encoding R112). -/
theorem decodeCphase_reserved_iff (p : BitVec 3) : (decodeCphase p).instr? = none ↔ 5 ≤ p.toNat := by revert p; decide

theorem fetch_scheduler {s : State} (hb : s.busReq = none) (ht : s.turn = .scheduler) :
    fetch s = fetchPhase (decodeSphase s.sphase) .reservedSphase s := by simp only [fetch, hb, ht]

theorem fetch_consumer {s : State} (hb : s.busReq = none) (ht : s.turn = .consumer) :
    fetch s = fetchPhase (decodeCphase s.cphase) .reservedCphase s := by simp only [fetch, hb, ht]

theorem fetch_host {s : State} (hb : s.busReq = none) (ht : s.turn = .host) : fetch s = fetchHost s := by
  simp only [fetch, hb, ht]

/-- With legal codes no fetch is stuck. -/
theorem fetch_ne_stuck {s : State} (h : CodesLegal s) (f : Fault) : fetch s ≠ .stuck f := by
  obtain ⟨hsph, hcph⟩ := h
  cases hb : s.busReq with
  | some b =>
    simp only [fetch, hb]
    nofun
  | none =>
    cases ht : s.turn with
    | scheduler =>
      rw [fetch_scheduler hb ht, ne_eq, fetchPhase_stuck_iff, decodeSphase_reserved_iff]
      omega
    | consumer =>
      rw [fetch_consumer hb ht, ne_eq, fetchPhase_stuck_iff, decodeCphase_reserved_iff]
      omega
    | host =>
      rw [fetch_host hb ht]
      exact fetchHost_ne_stuck s f

/-- Settles O45: no instruction stops the machine, and the fetch is stuck on the reserved codes alone. -/
theorem stuckIffReserved : Obligations.StuckIffReserved := by
  intro s
  refine ⟨fun h => step_answers (fetch_ne_stuck h), fun hb ht => ?sched, fun hb ht => ?cons⟩
  case sched => simp [step_fault_iff, fetch_scheduler hb ht, fetchPhase_stuck_iff, decodeSphase_reserved_iff]
  case cons => simp [step_fault_iff, fetch_consumer hb ht, fetchPhase_stuck_iff, decodeCphase_reserved_iff]

/-! ## O5: the worked encodings -/

/-- What the encoder writes is read back. -/
theorem read_of_written {i : Instr} {w : Words} (h : encode i = w) (hw : i.wellFormed = true) : decode w = .instr i :=
  h ▸ decodeEncode i hw

/-- Settles O5: each word is computed by the encoder, and is read back by O1. -/
theorem workedEncodings : Obligations.WorkedEncodings := by
  have input : encode (.evInput 1 3 true) = .ev ⟨0x30000017, none, none⟩ := by decide
  have pause : encode (.evPause .unpause true 5) = .ev ⟨0x40000506, none, none⟩ := by decide
  have setstep : encode (.evSetstep .cycleStep) = .ev ⟨0xA0000001, none, none⟩ := by decide
  have sample : encode (.evSample (BitVec.ofInt 16 (-2))) = .ev ⟨0x2000FFFE, none, none⟩ := by decide
  have pqPause : encode (.pqPause true 0) = .pq 0x0005 := by decide
  have quitsent : encode .pqQuitsent = .pq 0x0003 := by decide
  have mapAdd : encode (.ctlMapAdd .cpu 3 0x4016 0x4017) = .ctl 0x2003000040164017 := by decide
  have config : encode (.ctlConfig .pal true) = .ctl 0x1000000000000003 := by decide
  have busWr : encode (.busWr .cpu 0x2000 0x80) = .bus 0x1200080 := by decide
  exact ⟨input, read_of_written input rfl, pause, read_of_written pause rfl, setstep, read_of_written setstep rfl,
    sample, read_of_written sample rfl, pqPause, read_of_written pqPause rfl, quitsent, read_of_written quitsent rfl,
    mapAdd, read_of_written mapAdd rfl, config, read_of_written config rfl, busWr, read_of_written busWr rfl⟩

end Sys2Proof.Machine

/-!
The bus family (40_bus R130-R136). Lookup in a sound map and in any map (O39), the two transactions where a range holds the
address (O37) and where none does (O38), primitive calls as transactions run one after another (O40), what MAP_ADD checks
(O33), and the ports every step leaves (O59).
-/
namespace Sys2Proof.Machine

/-! ## O39: lookup -/

theorem entryHolds_iff (e : MapEntry) (addr : Addr) : entryHolds e addr = true ↔ e.lo ≤ addr ∧ addr ≤ e.hi := by
  simp [entryHolds]

theorem lookup_eq_none_iff (s : State) (sp : Space) (addr : Addr) :
    s.lookup sp addr = none ↔ ∀ e ∈ s.map sp, ¬(e.lo ≤ addr ∧ addr ≤ e.hi) := by
  simp only [State.lookup, Option.map_eq_none_iff, List.find?_eq_none, entryHolds_iff]

/-- What Lookup answers is the device of an entry that holds the address (40_bus R134). -/
theorem exists_entry_of_lookup {s : State} {sp : Space} {addr : Addr} {d : Byte} (h : s.lookup sp addr = some d) :
    ∃ e ∈ s.map sp, (e.lo ≤ addr ∧ addr ≤ e.hi) ∧ e.dev = d := by
  obtain ⟨e, he, hd⟩ := Option.map_eq_some_iff.1 h
  exact ⟨e, List.mem_of_find?_eq_some he, (entryHolds_iff e addr).1 (by simpa using List.find?_some he), hd⟩

theorem MapsSound.mapSound {s : State} (h : MapsSound s) (sp : Space) : MapSound s.plat (s.map sp) := by
  cases sp
  · exact h.1
  · exact h.2

/-- Two entries of a sound map that hold one address are one entry (40_bus R135). -/
theorem MapSound.eq_of_holds {p : Platform} {m : List MapEntry} (h : MapSound p m) {addr : Addr} {e f : MapEntry}
    (he : e ∈ m) (hf : f ∈ m) (hea : e.lo ≤ addr ∧ addr ≤ e.hi) (hfa : f.lo ≤ addr ∧ addr ≤ f.hi) : f = e := by
  by_contra hne
  have symm : Std.Symm fun e f : MapEntry => e.hi < f.lo ∨ f.hi < e.lo := ⟨fun _ _ => Or.symm⟩
  have apart : f.hi < e.lo ∨ e.hi < f.lo := h.apart.forall hf he hne
  bv_omega

/-- Settles O39: Lookup finds some entry that holds the address, and in a sound map that is the only one. -/
theorem lookupUnique : Obligations.LookupUnique := by
  intro s sp addr hs
  refine ⟨fun e he hlo hhi => ?_, (lookup_eq_none_iff s sp addr).symm⟩
  have only : ∀ f ∈ s.map sp, f.lo ≤ addr ∧ addr ≤ f.hi → f = e := fun f hf hfa =>
    (hs.mapSound sp).eq_of_holds he hf ⟨hlo, hhi⟩ hfa
  refine ⟨?_, fun f hf h1 h2 => only f hf ⟨h1, h2⟩⟩
  cases hl : s.lookup sp addr with
  | none => exact absurd ⟨hlo, hhi⟩ ((lookup_eq_none_iff s sp addr).1 hl e he)
  | some d =>
    obtain ⟨f, hf, hfa, rfl⟩ := exists_entry_of_lookup hl
    rw [only f hf hfa]

/-! ## The two transactions, mapped and unmapped -/

section
variable {s : State} {sp : Space} {addr : Addr}

theorem memRead_of_mapped {d : Byte} (h : s.lookup sp addr = some d) :
    memRead sp addr s = ((devRead d sp addr s).1, (devRead d sp addr s).2.setOpenBus sp (devRead d sp addr s).1) := by
  simp only [memRead, h]

theorem memWrite_of_mapped {d : Byte} (h : s.lookup sp addr = some d) (v : Byte) :
    memWrite sp addr v s = (devWrite d sp addr v s).setOpenBus sp v := by
  simp only [memWrite, h]

theorem memRead_of_unmapped (h : s.lookup sp addr = none) : memRead sp addr s = (s.openBus sp, s) := by
  simp only [memRead, h]

theorem memWrite_of_unmapped (h : s.lookup sp addr = none) (v : Byte) : memWrite sp addr v s = s.setOpenBus sp v := by
  simp only [memWrite, h]

end

theorem exec_busRd (sp : Space) (addr : Addr) (w : Byte) (s : State) :
    exec (.busRd sp addr w) s = .next ((memRead sp addr s).2.withBusRdata (memRead sp addr s).1) := rfl

theorem exec_busWr (sp : Space) (addr : Addr) (v : Byte) (s : State) :
    exec (.busWr sp addr v) s = .next (memWrite sp addr v s) := rfl

/-! ## O38: open bus -/

theorem setOpenBus_lookup (s : State) (sp q : Space) (v : Byte) (addr : Addr) :
    (s.setOpenBus sp v).lookup q addr = s.lookup q addr := by
  cases sp <;> cases q <;> rfl

theorem setOpenBus_same (s : State) (sp : Space) (v : Byte) : (s.setOpenBus sp v).openBus sp = v := by
  rw [setOpenBus_openBus, if_pos rfl]

theorem exec_busRd_of_unmapped {s : State} {sp : Space} {addr : Addr} (h : s.lookup sp addr = none) (w : Byte) :
    exec (.busRd sp addr w) s = .next { s with busRdata := s.openBus sp } := by
  rw [exec_busRd, memRead_of_unmapped h]
  rfl

/-- Settles O38: no device is reached, and the write leaves the maps as they are, so the read after it is unmapped too. -/
theorem busUnmapped : Obligations.BusUnmapped := by
  intro s sp addr w x hfree
  have unmapped : s.lookup sp addr = none := (lookup_eq_none_iff s sp addr).2 hfree
  refine ⟨exec_busRd_of_unmapped unmapped x, s.setOpenBus sp w, ?write, rfl, ?readBack⟩
  case write => rw [exec_busWr, memWrite_of_unmapped unmapped]
  case readBack => rw [exec_busRd_of_unmapped ((setOpenBus_lookup s sp sp w addr).trans unmapped), setOpenBus_same]

/-! ## O37: a mapped access -/

/-- A device's read changes no other device of the store (40_bus R131). -/
theorem devGet_devRead_other (d : Byte) (sp : Space) (addr : Addr) (s : State) {k : Nat} (hk : k ≠ d.toNat) :
    devGet (devRead d sp addr s).2.dev k = devGet s.dev k := by
  unfold devRead
  split
  · rfl
  · rfl
  · exact devGet_devSet_other _ _ _ _ hk
  · exact devGet_devSet_other _ _ _ _ hk
  · exact devGet_devSet_other _ _ _ _ hk

/-- A device's write changes no other device of the store (40_bus R132). -/
theorem devGet_devWrite_other (d : Byte) (sp : Space) (addr : Addr) (v : Byte) (s : State) {k : Nat} (hk : k ≠ d.toNat) :
    devGet (devWrite d sp addr v s).dev k = devGet s.dev k := by
  unfold devWrite
  split
  · rfl
  · rfl
  · exact devGet_devSet_other _ _ _ _ hk
  · exact devGet_devSet_other _ _ _ _ hk
  · exact devGet_devSet_other _ _ _ _ hk

/-- Settles O37: the transaction is the device's own read or write and then the latch of its space. -/
theorem busMapped : Obligations.BusMapped := by
  intro s sp addr w d hmap
  refine ⟨⟨_, exec_busRd sp addr w s, ?latchR, ?otherR, ?devR, ?effR, ?frameR⟩,
    ⟨_, exec_busWr sp addr w s, ?latchW, ?otherW, ?devW, ?effW, memWrite_busOnly sp addr w s⟩⟩
  case latchR => rw [memRead_of_mapped hmap]; exact (openBus_withBusRdata _ _ _).trans (setOpenBus_same _ _ _)
  case otherR => exact fun q hq => (openBus_withBusRdata _ _ _).trans (memRead_openBus_other sp q addr s hq)
  case devR =>
    intro k hk
    rw [memRead_of_mapped hmap]
    exact (congrArg (devGet · k) (setOpenBus_dev _ _ _)).trans (devGet_devRead_other d sp addr s hk)
  case effR =>
    rw [memRead_of_mapped hmap]
    simp only [State.withBusRdata, setOpenBus_ppu, setOpenBus_mapper, setOpenBus_dev, devRead]
    cases s.plat.kindOf d <;> simp
  case frameR => exact congrArg (State.withBusRdata · _) (memRead_busOnly sp addr s)
  case latchW => rw [memWrite_of_mapped hmap, setOpenBus_same]
  case otherW => exact fun q hq => memWrite_openBus_other sp q addr w s hq
  case devW =>
    intro k hk
    rw [memWrite_of_mapped hmap, setOpenBus_dev, devGet_devWrite_other d sp addr w s hk]
  case effW =>
    rw [memWrite_of_mapped hmap]
    simp only [setOpenBus_ppu, setOpenBus_mapper, setOpenBus_dev, devWrite]
    cases s.plat.kindOf d <;> simp

/-! ## O40: a primitive call -/

/-- A byte transaction of the space `sp`. -/
def IsBusInstr (sp : Space) (i : Instr) : Prop :=
  (∃ addr w, i = .busRd sp addr w) ∨ ∃ addr v, i = .busWr sp addr v

/-- The state after a primitive call is the state after a list of bus instructions (40_bus R136), whatever stands in the read
port when they start, but for the read port. -/
theorem runBus_eq_execAll {α : Type} (sp : Space) (call : BusProg α) (s : State) (x : Byte) :
    ∃ transactions : List Instr, (∀ i ∈ transactions, IsBusInstr sp i) ∧
      ∃ t, execAll transactions (s.withBusRdata x) = .next t ∧ (runBus sp call s).2 = t.withBusRdata s.busRdata := by
  induction call generalizing s x with
  | done a => exact ⟨[], nofun, s.withBusRdata x, rfl, rfl⟩
  | read addr k ih =>
    obtain ⟨l, hl, t, ht, heq⟩ := ih (memRead sp addr s).1 (memRead sp addr s).2 (memRead sp addr s).1
    refine ⟨.busRd sp addr 0 :: l, List.forall_mem_cons.2 ⟨.inl ⟨addr, 0, rfl⟩, hl⟩, t, ?_, ?_⟩
    · rw [execAll, exec_busRd, memRead_withBusRdata]
      exact ht
    · rwa [memRead_busRdata] at heq
  | write addr v k ih =>
    obtain ⟨l, hl, t, ht, heq⟩ := ih (memWrite sp addr v s) x
    refine ⟨.busWr sp addr v :: l, List.forall_mem_cons.2 ⟨.inr ⟨addr, v, rfl⟩, hl⟩, t, ?_, ?_⟩
    · rw [execAll, exec_busWr, memWrite_withBusRdata]
      exact ht
    · rwa [memWrite_busRdata] at heq

/-- Settles O40: a call's transactions are the bus instructions' own, and the read port takes no part in them. -/
theorem primitiveCallIsBus : Obligations.PrimitiveCallIsBus := by
  intro α s sp
  refine ⟨fun a => rfl, fun addr k w => ⟨_, exec_busRd sp addr w s, ?read⟩,
    fun addr v k => ⟨_, exec_busWr sp addr v s, rfl⟩, fun call => runBus_eq_execAll sp call s s.busRdata⟩
  case read =>
    have restored : ((memRead sp addr s).2.withBusRdata (memRead sp addr s).1).withBusRdata s.busRdata =
        (memRead sp addr s).2 := withBusRdata_self _ _ (memRead_busRdata sp addr s)
    exact congrArg (runBus sp (k (memRead sp addr s).1)) restored.symm

/-! ## O33: MAP_ADD -/

theorem hasDevice_iff (p : Platform) (dev : Byte) : p.hasDevice dev = true ↔ ∃ d ∈ p.devices, d.1 = dev := by
  simp [Platform.hasDevice]

theorem any_entryMeets_iff (m : List MapEntry) (lo hi : Addr) :
    (m.any fun e => entryMeets e lo hi) = true ↔ ¬∀ e ∈ m, ¬(e.lo ≤ hi ∧ lo ≤ e.hi) := by
  simp [entryMeets]

/-- MAP_ADD's chain of checks in the words of 40_bus R133. -/
theorem exec_mapAdd (s : State) (sp : Space) (dev : Byte) (lo hi : Addr) :
    exec (.ctlMapAdd sp dev lo hi) s = .next (
      if ¬(dev ≠ 0 ∧ ∃ d ∈ s.plat.devices, d.1 = dev) then s.setCtl .illegal
      else if ¬(s.sphase = SPhase.idle ∧ s.started = false) then s.setCtl .busy
      else if hi < lo then s.failConstruction .mapRange
      else if ¬∀ e ∈ s.map sp, ¬(e.lo ≤ hi ∧ lo ≤ e.hi) then s.failConstruction .mapConflict
      else if 32 ≤ (s.map sp).length then s.failConstruction .mapFull
      else (s.setMap sp (s.map sp ++ [⟨lo, hi, dev⟩])).setCtl .ok) := by
  have unknown : dev = 0 ∨ s.plat.hasDevice dev = false ↔ ¬(dev ≠ 0 ∧ ∃ d ∈ s.plat.devices, d.1 = dev) := by
    rw [← hasDevice_iff, not_and_or, not_ne_iff, Bool.not_eq_true]
  have busy : s.busy = true ↔ ¬(s.sphase = SPhase.idle ∧ s.started = false) := by
    rw [← busy_false_iff, Bool.not_eq_false]
  exact congrArg _ (if_congr unknown rfl (if_congr busy rfl (if_congr .rfl rfl
    (if_congr (any_entryMeets_iff _ lo hi) rfl rfl))))

/-- Settles O33: each clause is one branch of the chain. -/
theorem mapAddChecks : Obligations.MapAddChecks := by
  intro s sp dev lo hi map known open_ apart
  have hmap : map = s.map sp := rfl
  clear_value map
  subst hmap
  rw [exec_mapAdd]
  refine ⟨fun hk => ?unknown, fun hk ho => ?busy, fun hk ho hr => ?range, fun hk ho hr ha => ?conflict,
    fun hk ho hr ha hl => ?full, fun hk ho hr ha hl => ?added⟩
  case unknown => rw [if_pos hk]; rfl
  case busy => rw [if_neg (not_not_intro hk), if_pos ho]; rfl
  case range => rw [if_neg (not_not_intro hk), if_neg (not_not_intro ho), if_pos hr]; rfl
  case conflict => rw [if_neg (not_not_intro hk), if_neg (not_not_intro ho), if_neg (BitVec.not_lt.2 hr), if_pos ha]; rfl
  case full =>
    rw [if_neg (not_not_intro hk), if_neg (not_not_intro ho), if_neg (BitVec.not_lt.2 hr), if_neg (not_not_intro ha),
      if_pos hl]
    rfl
  case added =>
    rw [if_neg (not_not_intro hk), if_neg (not_not_intro ho), if_neg (BitVec.not_lt.2 hr), if_neg (not_not_intro ha),
      if_neg (Nat.not_le.2 hl)]
    cases sp <;> rfl

/-! ## O59: the ports -/

/-- The step brings no bus request to the multiplexer and keeps the device store in canonical form. -/
def KeepsPorts (s t : State) : Prop :=
  (s.busReq = none → t.busReq = none) ∧ (devWf s.dev = true → devWf t.dev = true)

theorem SchedCase.keepsPorts {s t : State} (h : SchedCase s t) : KeepsPorts s t := by
  refine ⟨by rw [h.effect.writes]; exact id, fun hs => ?_⟩
  cases h with
  | stay h => rwa [h]
  | move p hm h => rwa [h]
  | cpu r u hp hr hq hd hu hwf h =>
    rw [h]
    rcases cpuReturned_cases r u with ⟨code, k⟩ | ⟨latch, k⟩ <;> rw [k] <;> exact hwf hs
  | ppu sl r u hp hq hm hu hwf h =>
    rw [h, ppuReturned_eq]
    exact hwf hs
  | sample r hp hd hm h =>
    rw [h, sampleReturned_eq]
    exact hs
  | check hp h =>
    obtain ⟨_, _, _, _, _, _, -, -, k⟩ := checkedPause_step s
    rw [h, k]
    exact hs
  | wait hp hw h =>
    obtain ⟨_, _, _, _, _, _, -, -, k⟩ := waitedPause_step s hp
    rw [h, k]
    exact hs

theorem ConsCase.keepsPorts {s t : State} (h : ConsCase s t) : KeepsPorts s t := by
  obtain ⟨u, hu, hw⟩ := h.effect.writes
  refine ⟨by rw [h.effect.mayWrite]; exact id, fun hs => ?_⟩
  rw [hw]
  cases hu with
  | kept h => rwa [h]
  | loaded r hfit hp ha hh hs h =>
    rw [h]
    exact devNorm_wf r.dev

theorem CtlCase.keepsPorts {s t : State} (h : CtlCase s t) : KeepsPorts s t := by
  refine ⟨by rw [h.writes]; exact id, fun hs => ?_⟩
  cases h with
  | reset hb h => rw [h]; exact resetDevices_wf _ _ _ hs
  | start hb h => rw [h]; exact resetDevices_wf _ _ _ hs
  | mapAdd sp dev lo hi hb hdev hk hr ha hl h => rw [h]; simpa using hs
  | _ => subst t; exact hs

/-- Settles O59: the fetch takes the request that stands at the multiplexer, and no step fills the port again. -/
theorem portsKept : Obligations.PortsKept := by
  intro s t h
  cases hb : s.busReq with
  | some b =>
    rw [step_of_busReq hb] at h
    obtain ⟨u, v, hu, hwf, rfl⟩ := bus_exec h
    exact ⟨hu.busReq, hwf⟩
  | none =>
    suffices kept : KeepsPorts s t from ⟨kept.1 hb, kept.2⟩
    refine step_ind (P := KeepsPorts) ?_ ?_ ?_ ?_ ?_ ?_ ?_ ?_ h
    · exact fun s t h => h.keepsPorts
    · exact fun s t h => h.keepsPorts
    · exact fun s t h => h.keepsPorts
    · exact fun s u v hu hwf => ⟨fun hb => hu.busReq.trans hb, hwf⟩
    · intro s w img
      rcases hostPush_cases w img s with k | ⟨-, k⟩ <;> rw [k] <;> exact ⟨id, id⟩
    · exact fun s => ⟨id, id⟩
    · exact fun s t _ _ _ h => h
    · exact fun s t h => ⟨fun _ => h.1 rfl, h.2⟩

end Sys2Proof.Machine

/-!
The scheduler family (42_scheduler R170-R188). What each sequencer state does in each of its cases, an equation a case (O25), the
pause checks (O22), the CPU phase (O26), one PPU cycle (O27) and what it makes of the step modes (O28) and of a whole PPU phase
(O30), one slot of the drain (O29), when a turn changes something (O44), and what PAUSED rules out (O50, O53).
-/
namespace Sys2Proof.Machine

/-! ## O25: each sequencer state in each of its cases -/

section
variable {s : State}

theorem exec_seqTop_of_quit (hr : s.running = false) : exec .seqTop s = .next { s with sphase := SPhase.halt } := by
  simp only [exec, execSeqTop, hr, if_true]

theorem exec_seqTop_of_owed (hr : s.running = true) (hq : 5 ≤ s.quota.toNat) :
    exec .seqTop s = .next { s with sphase := SPhase.ppu } := by
  simp [exec, execSeqTop, hr, (owesPpu_iff s).2 hq]

theorem exec_seqTop_of_pending (hr : s.running = true) (hq : s.quota.toNat < 5) (hd : s.drainPending ≠ 0) :
    exec .seqTop s = .next { s with sphase := SPhase.drain } := by
  simp only [exec, execSeqTop, hr, (owesPpu_false_iff s).2 hq, if_pos hd]
  rfl

theorem exec_seqTop_of_settled (hr : s.running = true) (hq : s.quota.toNat < 5) (hd : s.drainPending = 0) :
    exec .seqTop s = .next (cpuPhase s) := by
  simp [exec, execSeqTop, hr, (owesPpu_false_iff s).2 hq, hd]

theorem exec_seqPpu_of_paid (hq : s.quota.toNat < 5) : exec .seqPpu s = .next { s with sphase := SPhase.drain } := by
  simp [exec, execSeqPpu, (owesPpu_false_iff s).2 hq]

theorem exec_seqPpu_of_owed (hq : 5 ≤ s.quota.toNat) (hm : s.mayPushEvent = true) :
    exec .seqPpu s = .next (ppuCycle s) := by
  simp [exec, execSeqPpu, (owesPpu_iff s).2 hq, hm]

theorem exec_seqPpu_of_full (hq : 5 ≤ s.quota.toNat) (hm : s.mayPushEvent = false) : exec .seqPpu s = .next s := by
  simp [exec, execSeqPpu, (owesPpu_iff s).2 hq, hm]

theorem exec_seqDrain_of_drained (hd : s.drainPending = 0) :
    exec .seqDrain s = .next { s with sphase := SPhase.pcheck } := by
  simp [exec, execSeqDrain, hd]

theorem exec_seqDrain_of_pending (hd : s.drainPending ≠ 0) (hm : s.mayPushEvent = true) :
    exec .seqDrain s = .next (sampleReturned (Config.apuSample s.cpu) s) := by
  simp only [exec, execSeqDrain, hm, if_neg hd, if_true]

theorem exec_seqDrain_of_full (hd : s.drainPending ≠ 0) (hm : s.mayPushEvent = false) : exec .seqDrain s = .next s := by
  simp only [exec, execSeqDrain, hm, if_neg hd]
  rfl

theorem exec_seqExitchk_of_running (hr : s.running = true) :
    exec .seqExitchk s = .next { s with sphase := SPhase.top } := by
  simp [exec, execSeqExitchk, hr]

theorem exec_seqExitchk_of_quit (hr : s.running = false) :
    exec .seqExitchk s = .next { s with sphase := SPhase.halt } := by
  simp [exec, execSeqExitchk, hr]

theorem exec_seqPwait_of_empty (hp : s.pq = []) (hr : s.running = true) : exec .seqPwait s = .next s := by
  simp [exec, execSeqPwait, hp, hr]

theorem exec_seqPwait_of_waiting (h : s.pq ≠ [] ∨ s.running = false) :
    exec .seqPwait s = .next (waitedPause (takePause s)) := by
  have h : ¬(s.pq = [] ∧ s.running = true) := fun k => by simp [k] at h
  simp only [exec, execSeqPwait, if_neg h]

theorem mayPushEvent_false (hr : s.running = true) (he : s.evqRoom = false) : s.mayPushEvent = false := by
  simp [State.mayPushEvent, hr, he]

end

/-- Settles O25: each clause is one case of its sequencer state. -/
theorem sequencerMoves : Obligations.SequencerMoves := fun _ =>
  ⟨exec_seqTop_of_quit, exec_seqTop_of_owed, exec_seqTop_of_pending, exec_seqPpu_of_paid,
    fun hq hr he => exec_seqPpu_of_full hq (mayPushEvent_false hr he), exec_seqDrain_of_drained,
    fun hd hr he => exec_seqDrain_of_full hd (mayPushEvent_false hr he), exec_seqExitchk_of_running,
    exec_seqExitchk_of_quit, rfl, rfl, rfl, rfl⟩

/-! ## O22: the pause checks -/

theorem takePause_of_empty {s : State} (h : s.pq = []) : takePause s = s := by
  simp only [takePause, h]

theorem takePause_of_cons {s u : State} {q : BitVec 16} {rest : List (BitVec 16)} {i : Instr} (h : s.pq = q :: rest)
    (hd : decodePq q = .instr i) (he : exec i { s with pq := rest } = .next u) : takePause s = u := by
  simp only [takePause, h]
  exact onPauseWord_exec hd he

/-- Settles O22: the check takes the head of PQ, whose instruction writes neither RUNNING nor PWAIT_RET, and then moves. -/
theorem pauseChecks : Obligations.PauseChecks := by
  intro s
  refine ⟨fun hq => ⟨?checkEmpty, ?waitEmpty⟩, fun q rest i hq hd => ?taken⟩
  case checkEmpty =>
    show Host.Outcome.next (checkedPause (takePause s)) = _
    rw [takePause_of_empty hq]
    rfl
  case waitEmpty =>
    by_cases hr : s.running = false
    · rw [exec_seqPwait_of_waiting (.inr hr), takePause_of_empty hq, waitedPause, if_pos hr, if_pos hr]
    · rw [exec_seqPwait_of_empty hq (by simpa using hr), if_neg hr]
  case taken =>
    obtain ⟨u, hu⟩ := exec_answers i { s with pq := rest }
    have taken : takePause s = u := takePause_of_cons hq hd hu
    have only : u = { s with
        paused := u.paused, ackValid := u.ackValid, ackVal := u.ackVal, out := u.out, pq := s.pq.tail } :=
      taken ▸ takePause_eq s
    refine ⟨u, hu, ?_, ?_⟩
    · exact congrArg (fun v => Host.Outcome.next (checkedPause v)) taken
    · have running : u.running = s.running := by rw [only]
      have ret : u.pwaitRet = s.pwaitRet := by rw [only]
      rw [exec_seqPwait_of_waiting (.inl (by simp [hq])), taken, ← running, ← ret]
      rfl

/-! ## O26: the CPU phase -/

/-- The credit of a CPU step does not wrap: less than a PPU cycle is owed before it (42_scheduler R182). -/
theorem toNat_credit (s : State) (n : BitVec 16) (hq : s.quota.toNat < 5) :
    (s.quota + BitVec.ofNat 32 (n.toNat * s.divNum)).toNat = s.quota.toNat + n.toNat * s.divNum := by
  have : n.toNat * s.divNum ≤ 65535 * 16 := Nat.mul_le_mul (by omega) (divNum_le s)
  rw [BitVec.toNat_add, BitVec.toNat_ofNat]
  omega

theorem toNat_cpuCyc_add (c : BitVec 64) (n : BitVec 16) :
    (c + n.setWidth 64).toNat = (c.toNat + n.toNat) % 2 ^ 64 := by
  rw [BitVec.toNat_add, BitVec.toNat_setWidth, Nat.mod_eq_of_lt (by omega : n.toNat < 2 ^ 64)]

/-- Settles O26: the CPU step runs over the bus, which writes the device side alone, and is then credited or fatal. -/
theorem cpuPhaseEffect : Obligations.CpuPhaseEffect := by
  intro s hr hq hd
  refine ⟨cpuPhase s, exec_seqTop_of_settled hr hq hd, ?_⟩
  have hlatch := runBus_openBus_other .cpu .ppu (Config.cpuStep s.cpu s.nmiLatch s.irqLine) s (by decide)
  have hbus := runBus_busOnly .cpu (Config.cpuStep s.cpu s.nmiLatch s.irqLine) s
  simp only [cpuPhase, State.irqLine] at hlatch hbus ⊢
  generalize runBus Space.cpu (Config.cpuStep s.cpu s.nmiLatch (Config.mapperIrq s.mapper)) s = r at *
  obtain ⟨r, u⟩ := r
  obtain ⟨ppu, mapper, dev, cpuBus, ppuBus, rfl⟩ := hbus.fields
  obtain rfl : ppuBus = s.openBusPpu := hlatch
  cases herr : r.err with
  | none =>
    simp only [cpuReturned, herr, true_and]
    refine ⟨toNat_credit s r.cycles hq, toNat_cpuCyc_add s.cpuCyc r.cycles, ?_, trivial⟩
    cases r.nmiTaken <;> simp
  | some e => cases e <;> simp [cpuReturned, herr, fatalInTop, fatalEntry, faultOf]

/-! ## O27: one PPU cycle -/

theorem toNat_payCycle {q : BitVec 32} (hq : 5 ≤ q.toNat) : (q - 5).toNat = q.toNat - 5 := by bv_omega

/-- PAUSED after a PPU cycle, a term for each step mode (42_scheduler R173 b, e). -/
theorem pausedBy_eq (sl : BitVec 16) (r : PpuResult) (s : State) :
    pausedBy sl r s = (s.paused || decide (s.stepMode = .cycleStep) ||
      decide (s.stepMode = .frameStep ∧ r.fb.isSome = true) ||
      decide (s.stepMode = .scanlineStep ∧ r.ppu.scanline ≠ sl)) := by
  have changed : (r.ppu.scanline != sl) = decide (r.ppu.scanline ≠ sl) :=
    Bool.eq_iff_iff.2 (by simp)
  rw [pausedBy, changed]
  cases s.stepMode <;> simp

/-- Settles O27: every register is read off `ppuCycle_eq`. -/
theorem ppuCycleEffect : Obligations.PpuCycleEffect := by
  intro s hq hm
  refine ⟨ppuCycle s, exec_seqPpu_of_owed hq ((mayPushEvent_iff s).2 hm), ?_⟩
  rw [ppuCycle_eq]
  generalize runBus Space.ppu (Config.ppuStep s.ppu) s = r
  obtain ⟨r, u⟩ := r
  refine ⟨rfl, rfl, rfl, rfl, rfl, BitVec.toNat_add _ _, toNat_payCycle hq, rfl, rfl, ?frame, pausedBy_eq _ r s,
    rfl, rfl, rfl⟩
  cases hfb : r.fb with
  | none => simp [frameEvents, hfb]
  | some pixel =>
    refine ⟨by simp [hfb, BitVec.toNat_add], ?_⟩
    cases hr : s.running <;> simp [frameEvents, frameEntry, hfb, hr]

/-! ## O28: the single-step laws -/

/-- Settles O28: PAUSED as O27 states it, mode by mode. -/
theorem singleStepLaws : Obligations.SingleStepLaws := by
  intro s hsp hp hq hm
  obtain ⟨t, ht, -, hppu, -, -, -, -, -, -, -, hframe, hpaused, hret, hsphase, -⟩ := ppuCycleEffect s hq hm
  generalize runBus Space.ppu (Config.ppuStep s.ppu) s = r at *
  obtain ⟨r, u⟩ := r
  dsimp only at hppu hframe hpaused
  have waits : t.sphase = 0x5 ↔ t.paused = true := by
    rw [hsphase, hsp]
    cases t.paused <;> decide
  have runs : t.sphase = 0x2 ↔ t.paused = false := by
    rw [hsphase, hsp]
    cases t.paused <;> decide
  have framed : t.frameSeq ≠ s.frameSeq ↔ r.fb.isSome = true := by
    cases hfb : r.fb with
    | none =>
      rw [hfb] at hframe
      simp [hframe.2]
    | some pixel =>
      rw [hfb] at hframe
      have counted := hframe.1
      simp only [Option.isSome_some, iff_true]
      intro same
      rw [same] at counted
      omega
  rw [hp, Bool.false_or] at hpaused
  refine ⟨t, ht, waits.symm, runs.symm, fun h => ?cycle, fun h => ?scanline, fun h => ?frame, fun h => ?noStep⟩
  case cycle =>
    have paused : t.paused = true := by simp [hpaused, h]
    exact ⟨waits.2 paused, by simp [hret, paused]⟩
  case scanline =>
    rw [waits, hpaused, hppu]
    simp [h]
  case frame =>
    rw [waits, hpaused, framed]
    simp [h]
  case noStep =>
    rw [runs, hpaused]
    simp [h]

/-! ## O30: a whole PPU phase -/

/-- The scheduler is in PPU, and nothing makes it pause or wait: no step mode, and EVQ never full. -/
structure FreeRun (s : State) : Prop where
  sphase : s.sphase = SPhase.ppu
  stepMode : s.stepMode = .noStep
  paused : s.paused = false
  evq : s.plat.evqDepth = none

theorem FreeRun.evqRoom {s : State} (h : FreeRun s) : s.evqRoom = true := by
  simp only [State.evqRoom, h.evq, roomFor]

/-- One PPU cycle of a free run, as O27 states it. -/
theorem FreeRun.cycle {s : State} (h : FreeRun s) (hq : 5 ≤ s.quota.toNat) :
    ∃ t, exec .seqPpu s = .next t ∧ FreeRun t ∧ t.quota.toNat = s.quota.toNat - 5 ∧
      t.ppuCyc.toNat = (s.ppuCyc.toNat + 1) % 2 ^ 64 := by
  obtain ⟨t, ht, -, -, -, -, -, hcyc, hquota, -, -, -, hpaused, -, hsphase, hrest⟩ :=
    ppuCycleEffect s hq (.inr h.evqRoom)
  have unpaused : t.paused = false := by simp [hpaused, h.paused, h.stepMode]
  refine ⟨t, ht, ⟨?_, ?_, unpaused, ?_⟩, hquota, hcyc⟩
  · rw [hsphase, unpaused, h.sphase]
    rfl
  · rw [hrest]
    exact h.stepMode
  · rw [hrest]
    exact h.evq

/-- As many cycles of a free run as are owed. -/
theorem FreeRun.cycles {s : State} (h : FreeRun s) (n : Nat) (hq : 5 * n ≤ s.quota.toNat) :
    ∃ t, execAll (List.replicate n .seqPpu) s = .next t ∧ FreeRun t ∧ t.quota.toNat = s.quota.toNat - 5 * n ∧
      t.ppuCyc.toNat = (s.ppuCyc.toNat + n) % 2 ^ 64 := by
  induction n generalizing s with
  | zero => exact ⟨s, rfl, h, rfl, (Nat.mod_eq_of_lt s.ppuCyc.isLt).symm⟩
  | succ n ih =>
    obtain ⟨u, hu, hfree, huq, huc⟩ := h.cycle (by omega)
    obtain ⟨t, ht, htfree, htq, htc⟩ := ih hfree (by omega)
    refine ⟨t, ?_, htfree, by omega, by omega⟩
    rw [List.replicate_succ, execAll, hu]
    exact ht

/-- Settles O30: by induction on the cycles owed, after which less than one is left. -/
theorem ppuPhaseLength : Obligations.PpuPhaseLength := by
  intro s hsp hm hp he
  obtain ⟨t, ht, hfree, hq, hc⟩ := FreeRun.cycles ⟨hsp, hm, hp, he⟩ (s.quota.toNat / 5) (by omega)
  have left : t.quota.toNat = s.quota.toNat % 5 := by omega
  exact ⟨t, ht, left, hc, hfree.sphase, hfree.paused, exec_seqPpu_of_paid (by omega)⟩

/-! ## O29: the sample drain -/

/-- Settles O29: every register is read off `sampleReturned_eq`, the fields of the word off `sampleWord`. -/
theorem drainSlot : Obligations.DrainSlot := by
  intro s hd hm
  refine ⟨_, exec_seqDrain_of_pending hd ((mayPushEvent_iff s).2 hm), ?_⟩
  rw [sampleReturned_eq]
  refine ⟨by bv_omega, rfl, ?_, rfl⟩
  dsimp only [sampleEvents]
  split
  · exact ⟨_, rfl, sampleWord_tag _, sampleWord_zero _, sampleWord_sample _⟩
  · exact List.append_nil _

/-! ## O44: a turn changes something exactly when its agent is enabled -/

/-- A turn that passes, in a state that is not enabled. -/
theorem passes_iff {a : Answer} {s : State} {enabled : Bool} (h : a = .next s) (he : enabled = false) :
    a = .next s ↔ enabled = false := ⟨fun _ => he, fun _ => h⟩

/-- A turn that changes a field, in a state that is enabled. -/
theorem changes_iff {α : Type} (field : State → α) {a : Answer} {s t : State} {enabled : Bool} (h : a = .next t)
    (hf : field t ≠ field s) (he : enabled = true) : a = .next s ↔ enabled = false := by
  refine ⟨fun k => ?_, fun k => by simp [he] at k⟩
  obtain rfl : t = s := Host.Outcome.next.inj (h.symm.trans k)
  exact absurd rfl hf

/-- The CPU phase leaves TOP (42_scheduler R172, 60_exceptions R302). -/
theorem cpuPhase_sphase (s : State) : (cpuPhase s).sphase = SPhase.ppu ∨ (cpuPhase s).sphase = SPhase.halt := by
  rw [cpuPhase]
  rcases cpuReturned_cases (runBus .cpu (Config.cpuStep s.cpu s.nmiLatch s.irqLine) s).1
    (runBus .cpu (Config.cpuStep s.cpu s.nmiLatch s.irqLine) s).2 with ⟨code, k⟩ | ⟨latch, k⟩ <;> rw [k]
  · exact .inr rfl
  · exact .inl rfl

theorem checkedPause_sphase (s : State) :
    (checkedPause s).sphase = if s.paused = true then SPhase.pwait else SPhase.exitchk := by
  unfold checkedPause
  split <;> rfl

theorem waitedPause_pq (s : State) : (waitedPause s).pq = s.pq := by
  unfold waitedPause
  split_ifs <;> rfl

theorem takePause_pq (s : State) : (takePause s).pq = s.pq.tail := by rw [takePause_eq]
theorem takePause_running (s : State) : (takePause s).running = s.running := by rw [takePause_eq]
theorem takePause_sphase (s : State) : (takePause s).sphase = s.sphase := by rw [takePause_eq]

/-- No handler writes EVQ: the entry is popped before it runs (44_events R222). -/
theorem onEntry_evq (e : EvEntry) (s : State) : (onEntry e s).evq = s.evq := by
  cases entryCase e s <;> simp [*]

section
variable {s : State}

theorem schedulerEnabled_ppu (hp : s.sphase = SPhase.ppu) : s.schedulerEnabled = (!s.owesPpu || s.mayPushEvent) := by
  simp [State.schedulerEnabled, State.mayPushEvent, hp, Bool.or_assoc]

theorem schedulerEnabled_drain (hp : s.sphase = SPhase.drain) :
    s.schedulerEnabled = (s.drainPending == 0 || s.mayPushEvent) := by
  simp [State.schedulerEnabled, State.mayPushEvent, hp, Bool.or_assoc]

theorem schedulerEnabled_pwait (hp : s.sphase = SPhase.pwait) : s.schedulerEnabled = (!s.pq.isEmpty || !s.running) := by
  simp [State.schedulerEnabled, hp]

theorem seqTop_passes_iff (hp : s.sphase = SPhase.top) : exec .seqTop s = .next s ↔ s.schedulerEnabled = false := by
  have enabled : s.schedulerEnabled = true := by simp [State.schedulerEnabled, hp]
  rcases execSeqTop_cases s with ⟨-, k⟩ | ⟨-, -, k⟩ | ⟨-, -, -, k⟩ | ⟨-, -, -, k⟩
  · exact changes_iff State.sphase k (by simp [hp]) enabled
  · exact changes_iff State.sphase k (by simp [hp]) enabled
  · exact changes_iff State.sphase k (by simp [hp]) enabled
  · exact changes_iff State.sphase k (by rcases cpuPhase_sphase s with j | j <;> simp [j, hp]) enabled

theorem seqPpu_passes_iff (hp : s.sphase = SPhase.ppu) : exec .seqPpu s = .next s ↔ s.schedulerEnabled = false := by
  rw [schedulerEnabled_ppu hp]
  rcases execSeqPpu_cases s with ⟨hq, k⟩ | ⟨hq, hm, k⟩ | ⟨hq, hm, k⟩
  · exact changes_iff State.sphase k (by simp [hp]) (by simp [(owesPpu_false_iff s).2 hq])
  · exact changes_iff State.quota k (by rw [ppuCycle_eq]; dsimp only; bv_omega) (by simp [hm])
  · exact passes_iff k (by simp [(owesPpu_iff s).2 hq, hm])

theorem seqDrain_passes_iff (hp : s.sphase = SPhase.drain) :
    exec .seqDrain s = .next s ↔ s.schedulerEnabled = false := by
  rw [schedulerEnabled_drain hp]
  rcases execSeqDrain_cases s with ⟨hd, k⟩ | ⟨hd, hm, k⟩ | ⟨hd, hm, k⟩
  · exact changes_iff State.sphase k (by simp [hp]) (by simp [hd])
  · exact changes_iff State.drainPending k (by rw [sampleReturned_eq]; dsimp only; bv_omega) (by simp [hm])
  · exact passes_iff k (by simpa [hm] using hd)

theorem seqPcheck_passes_iff (hp : s.sphase = SPhase.pcheck) :
    exec .seqPcheck s = .next s ↔ s.schedulerEnabled = false := by
  refine changes_iff State.sphase rfl ?_ (by simp [State.schedulerEnabled, hp])
  rw [checkedPause_sphase, hp]
  split <;> decide

theorem seqPwait_passes_iff (hp : s.sphase = SPhase.pwait) :
    exec .seqPwait s = .next s ↔ s.schedulerEnabled = false := by
  rw [schedulerEnabled_pwait hp]
  rcases execSeqPwait_cases s with ⟨hq, hr, k⟩ | ⟨hw, k⟩
  · exact passes_iff k (by simp [hq, hr])
  · cases hq : s.pq with
    | cons q rest => exact changes_iff State.pq k (by simp [waitedPause_pq, takePause_pq, hq]) rfl
    | nil =>
      have hr : s.running = false := hw.resolve_left (not_not_intro hq)
      refine changes_iff State.sphase k ?_ (by simp [hr])
      rw [waitedPause, if_pos ((takePause_running s).trans hr)]
      simp [hp]

theorem seqExitchk_passes_iff (hp : s.sphase = SPhase.exitchk) :
    exec .seqExitchk s = .next s ↔ s.schedulerEnabled = false := by
  refine changes_iff State.sphase rfl ?_ (by simp [State.schedulerEnabled, hp])
  dsimp only
  split <;> simp [hp]

theorem seqCFetch_passes_iff (hp : s.cphase = CPhase.fetch) :
    exec .seqCFetch s = .next s ↔ s.consumerEnabled = false := by
  cases hr : s.running with
  | false =>
    have quits : exec .seqCFetch s = .next { s with cphase := CPhase.halt } := by simp [exec, execSeqCFetch, hr]
    exact changes_iff State.cphase quits (by simp [hp]) (by simp [State.consumerEnabled, hp, hr])
  | true =>
    cases he : s.evq with
    | nil =>
      have waits : exec .seqCFetch s = .next s := by simp [exec, execSeqCFetch, hr, he]
      exact passes_iff waits (by simp [State.consumerEnabled, hp, hr, he])
    | cons e rest =>
      have answer : exec .seqCFetch s =
          .next (if pushesPause e && !s.pqRoom then s else onEntry e { s with evq := rest }) := by
        simp [exec, execSeqCFetch, hr, he]
      have enabled : s.consumerEnabled = !(pushesPause e && !s.pqRoom) := by
        simp [State.consumerEnabled, hp, hr, he]
      rw [enabled]
      cases hb : pushesPause e && !s.pqRoom with
      | true => exact passes_iff (by rw [answer, if_pos hb]) rfl
      | false =>
        exact changes_iff State.evq (t := onEntry e { s with evq := rest }) (by rw [answer, hb]; rfl)
          (by simp [onEntry_evq, he]) rfl

/-- The turn of a handshake, which waits, is cut short or finishes (44_events R234, R235). -/
theorem handshake_passes_iff (hp : s.cphase = CPhase.saveAck ∨ s.cphase = CPhase.loadAck) {finish : State → State}
    (hf : (finish s).cphase = CPhase.fetch) :
    (Host.Outcome.next (if s.handshakeReady = false then s
        else if s.sphase = SPhase.halt then abortHandshake s else finish s) : Answer) = .next s ↔
      s.consumerEnabled = false := by
  have enabled : s.consumerEnabled = s.handshakeReady := by
    rcases hp with hp | hp <;> simp [State.consumerEnabled, State.handshakeReady, hp]
  rw [enabled]
  cases hr : s.handshakeReady with
  | false => exact passes_iff (by rw [if_pos rfl]) rfl
  | true =>
    refine changes_iff State.cphase rfl ?_ rfl
    rw [if_neg (by decide)]
    split
    · rcases hp with hp | hp <;> simp [hp, abortHandshake]
    · rcases hp with hp | hp <;> simp [hp, hf]

end

theorem finishSave_cphase (s : State) : (finishSave s).cphase = CPhase.fetch := by rw [finishSave_eq]

theorem finishLoad_cphase (s : State) : (finishLoad s).cphase = CPhase.fetch := by
  rcases finishLoad_cases s with ⟨code, -, k⟩ | ⟨r, -, k⟩ <;> rw [k, endHandshake_eq]

/-- Settles O44: state by state, a turn passes where the "enabled when" column fails and changes a field where it holds. -/
theorem stepIffEnabled : Obligations.StepIffEnabled := by
  intro s i
  refine ⟨fun hd => ?scheduler, fun hd => ?consumer⟩
  case scheduler =>
    rcases decodeSphase_cases hd with ⟨hp, rfl⟩ | ⟨hp, rfl⟩ | ⟨hp, rfl⟩ | ⟨hp, rfl⟩ | ⟨hp, rfl⟩ | ⟨hp, rfl⟩ | ⟨hp, rfl⟩ |
      ⟨hp, rfl⟩
    · exact passes_iff rfl (by simp [State.schedulerEnabled, hp])
    · exact seqTop_passes_iff hp
    · exact seqPpu_passes_iff hp
    · exact seqDrain_passes_iff hp
    · exact seqPcheck_passes_iff hp
    · exact seqPwait_passes_iff hp
    · exact seqExitchk_passes_iff hp
    · exact passes_iff rfl (by simp [State.schedulerEnabled, hp])
  case consumer =>
    rcases decodeCphase_cases hd with ⟨hp, rfl⟩ | ⟨hp, rfl⟩ | ⟨hp, rfl⟩ | ⟨hp, rfl⟩ | ⟨hp, rfl⟩
    · exact passes_iff rfl (by simp [State.consumerEnabled, hp])
    · exact seqCFetch_passes_iff hp
    · exact handshake_passes_iff (.inl hp) (finishSave_cphase s)
    · exact handshake_passes_iff (.inr hp) (finishLoad_cphase s)
    · exact passes_iff rfl (by simp [State.consumerEnabled, hp])

/-! ## O50: a paused scheduler -/

/-- The wait of PWAIT writes nothing beyond the pause check and SPHASE (42_scheduler R176). -/
theorem waitedPause_writes (s : State) :
    waitedPause s = { s with sphase := (waitedPause s).sphase } := by
  unfold waitedPause
  split_ifs <;> rfl

/-- Settles O50: a paused scheduler stands in PWAIT, whose step takes a pause word and may leave, or in HALT. -/
theorem pausedStandsStill : Obligations.PausedStandsStill := by
  intro s t hs hp hb ht h
  rcases hs.1 hp with hw | hh
  · rw [step_of_scheduler (i := .seqPwait) hb ht (by rw [hw]; rfl)] at h
    rcases execSeqPwait_cases s.pass with ⟨-, -, k⟩ | ⟨-, k⟩ <;> cases k.symm.trans h
    · rfl
    · rw [waitedPause_writes, takePause_eq]
      rfl
  · rw [step_of_scheduler (i := .seqHalt) hb ht (by rw [hh]; rfl)] at h
    cases h
    rfl

/-! ## O53: where the scheduler is paused -/

/-- A scheduler that is not paused and does not wait is sound. -/
theorem PauseSound.of_unpaused {s : State} (hp : s.paused = false) (hw : s.sphase ≠ SPhase.pwait) : PauseSound s :=
  ⟨fun k => by simp [hp] at k, fun k => absurd k hw⟩

/-- A scheduler that is paused exactly in PWAIT is sound. -/
theorem PauseSound.of_iff {s : State} (h : s.paused = true ↔ s.sphase = SPhase.pwait) : PauseSound s :=
  ⟨fun k => .inl (h.1 k), h.2⟩

/-- The invariant reads PAUSED and SPHASE alone. -/
theorem PauseSound.of_same {s t : State} (h : PauseSound s) (hp : t.paused = s.paused) (hs : t.sphase = s.sphase) :
    PauseSound t := by
  unfold PauseSound at *
  rwa [hp, hs]

/-- Outside PWAIT and HALT the scheduler is not paused. -/
theorem PauseSound.unpaused {s : State} (h : PauseSound s) (hw : s.sphase ≠ SPhase.pwait) (hh : s.sphase ≠ SPhase.halt) :
    s.paused = false := by
  cases hp : s.paused
  · rfl
  · exact ((h.1 hp).elim hw hh).elim

/-- A move of the sequencer starts in a running phase and never enters PWAIT. -/
theorem SeqMove.not_pwait {s : State} {p : BitVec 4} (h : SeqMove s p) :
    s.sphase ≠ SPhase.pwait ∧ s.sphase ≠ SPhase.halt ∧ p ≠ SPhase.pwait := by
  cases h <;> simp [*]

theorem checkedPause_pauseSound (s : State) : PauseSound (checkedPause s) := by
  unfold checkedPause
  split
  · exact .of_iff ⟨fun _ => rfl, fun _ => ‹_›⟩
  · exact .of_unpaused (by simpa using ‹¬s.paused = true›) (by simp)

theorem waitedPause_pauseSound {s : State} (hp : s.sphase = SPhase.pwait) : PauseSound (waitedPause s) := by
  unfold waitedPause
  split
  · exact ⟨fun _ => .inr rfl, nofun⟩
  · split
    · exact ⟨fun _ => .inl hp, fun _ => ‹_›⟩
    · exact .of_unpaused (by simpa using ‹¬s.paused = true›) (by dsimp only; split <;> simp)

theorem SchedCase.pauseSound {s t : State} (h : SchedCase s t) (hs : PauseSound s) : PauseSound t := by
  cases h with
  | stay h => exact h ▸ hs
  | move p hm h =>
    obtain ⟨hw, hh, hto⟩ := hm.not_pwait
    subst h
    exact .of_unpaused (hs.unpaused hw hh) hto
  | cpu r u hp hr hq hd hu hwf h =>
    have unpaused : u.paused = false := hu.paused.trans (hs.unpaused (by simp [hp]) (by simp [hp]))
    rcases cpuReturned_cases r u with ⟨code, k⟩ | ⟨latch, k⟩ <;> rw [h, k] <;> exact .of_unpaused unpaused (by simp)
  | ppu sl r u hp hq hm hu hwf h =>
    rw [h, ppuReturned_eq]
    refine .of_iff ?_
    dsimp only
    rw [hu.sphase, hp]
    cases pausedBy sl r u <;> simp
  | sample r hp hd hm h =>
    rw [h, sampleReturned_eq]
    exact hs.of_same rfl rfl
  | check hp h => exact h ▸ checkedPause_pauseSound _
  | wait hp hw h => exact h ▸ waitedPause_pauseSound ((takePause_sphase s).trans hp)

theorem ConsCase.pauseSound {s t : State} (h : ConsCase s t) (hs : PauseSound s) : PauseSound t := by
  obtain ⟨-, -, -, -, -, hp, hsp, -⟩ := h.effect.unwritten
  exact hs.of_same hp hsp

/-- RESET and START clear PAUSED with the scheduler in IDLE or TOP; no other command writes PAUSED or SPHASE. -/
theorem CtlCase.pauseSound {s t : State} (h : CtlCase s t) (hs : PauseSound s) : PauseSound t := by
  cases h with
  | reset hb h =>
    subst h
    exact .of_unpaused rfl (by simp [((busy_false_iff s).1 hb).1])
  | start hb h => subst h; exact .of_unpaused rfl (by simp)
  | mapAdd sp dev lo hi hb hdev hk hr ha hl h => subst h; exact hs.of_same (by simp) (by simp)
  | _ => subst t; exact hs.of_same rfl rfl

/-- Settles O53: PAUSED is set with the entry of PWAIT, and PWAIT is left when it is clear or for HALT. -/
theorem pauseSoundKept : Obligations.PauseSoundKept := by
  intro s t hs h
  refine step_ind (P := fun s t => PauseSound s → PauseSound t) ?_ ?_ ?_ ?_ ?_ ?_ ?_ ?_ h hs
  · exact fun s t h => h.pauseSound
  · exact fun s t h => h.pauseSound
  · exact fun s t h => h.pauseSound
  · exact fun s u v hu _ hs => hs.of_same hu.paused hu.sphase
  · intro s w img hs
    rcases hostPush_cases w img s with k | ⟨-, k⟩ <;> rw [k] <;> exact hs
  · exact fun s => id
  · exact fun s t _ _ _ h => h
  · exact fun s t h => h

end Sys2Proof.Machine

/-!
The pause family (43_pause R201-R208). What a request makes of PAUSED and of its acknowledgement, said once of `applyPause` and
then by instruction (O21) and by the bits of its word (O20), a Pause and an Unpause at the running scheduler (O23), and what a
sequence of requests leaves in PAUSED (O24).
-/
namespace Sys2Proof.Machine

/-! ## A request that can be acknowledged (43_pause R201, R206) -/

theorem exec_pqToggle (a : Bool) (c : Byte) (s : State) : exec (.pqToggle a c) s = .next (applyPause .toggle a c s) := rfl
theorem exec_pqPause (a : Bool) (c : Byte) (s : State) : exec (.pqPause a c) s = .next (applyPause .pause a c s) := rfl
theorem exec_pqUnpause (a : Bool) (c : Byte) (s : State) :
    exec (.pqUnpause a c) s = .next (applyPause .unpause a c s) := rfl
theorem exec_pqQuitsent (s : State) : exec .pqQuitsent s = .next s := rfl

theorem applyPause_of_silent (k : PauseKind) (c : Byte) (s : State) :
    applyPause k false c s = { s with paused := pausedAfter k s.paused } := rfl

theorem applyPause_of_mailbox (k : PauseKind) (s : State) :
    applyPause k true 0 s =
      { s with paused := pausedAfter k s.paused, ackValid := true, ackVal := pausedAfter k s.paused != s.paused } := rfl

theorem applyPause_of_backChannel {c : Byte} (hc : c ≠ 0) (k : PauseKind) (s : State) :
    applyPause k true c s =
      { s with paused := pausedAfter k s.paused, out := s.out ++ [.ack c (pausedAfter k s.paused != s.paused)] } := by
  simp only [applyPause, acknowledge, if_neg hc, if_true]
  rfl

/-- A request by its acknowledgement: the mailbox, a back-channel, or none. -/
theorem applyPause_eq (k : PauseKind) (a : Bool) (c : Byte) (s : State) :
    applyPause k a c s =
      if a = true then
        if c = 0 then
          { s with paused := pausedAfter k s.paused, ackValid := true, ackVal := pausedAfter k s.paused != s.paused }
        else { s with paused := pausedAfter k s.paused, out := s.out ++ [.ack c (pausedAfter k s.paused != s.paused)] }
      else { s with paused := pausedAfter k s.paused } := by
  cases a with
  | false => exact applyPause_of_silent k c s
  | true =>
    rw [if_pos rfl]
    split
    · next hc => rw [hc, applyPause_of_mailbox]
    · next hc => exact applyPause_of_backChannel hc k s

/-! ## O21: the four instructions -/

/-- A request writes PAUSED and sends the acknowledgement it asks for, with whether PAUSED changed, and nothing else. -/
theorem applyPause_effect {k : PauseKind} {changed : Bool} {s : State}
    (hchg : (pausedAfter k s.paused != s.paused) = changed) (a : Bool) (c : Byte) :
    (applyPause k a c s).paused = pausedAfter k s.paused ∧
      (a = true → c = 0 → (applyPause k a c s).ackValid = true ∧ (applyPause k a c s).ackVal = changed ∧
        (applyPause k a c s).out = s.out) ∧
      (a = true → c ≠ 0 → (applyPause k a c s).ackValid = s.ackValid ∧ (applyPause k a c s).ackVal = s.ackVal ∧
        (applyPause k a c s).out = s.out ++ [.ack c changed]) ∧
      (a = false → (applyPause k a c s).ackValid = s.ackValid ∧ (applyPause k a c s).ackVal = s.ackVal ∧
        (applyPause k a c s).out = s.out) ∧
      PauseOnly s (applyPause k a c s) := by
  subst hchg
  refine ⟨applyPause_paused k a c s, ?mailbox, ?backChannel, ?silent, applyPause_only k a c s⟩
  case mailbox =>
    rintro rfl rfl
    exact ⟨rfl, rfl, rfl⟩
  case backChannel =>
    rintro rfl hc
    rw [applyPause_of_backChannel hc]
    exact ⟨rfl, rfl, rfl⟩
  case silent =>
    rintro rfl
    exact ⟨rfl, rfl, rfl⟩

/-- Settles O21: each request is `applyPause` of its kind; whether PAUSED changed is known from the kind. -/
theorem pauseInstrsComplete : Obligations.PauseInstrsComplete := fun s ack chan =>
  ⟨⟨_, exec_pqToggle ack chan s, applyPause_effect (by simp [pausedAfter]) ack chan⟩,
    ⟨_, exec_pqPause ack chan s, applyPause_effect (by simp [pausedAfter]) ack chan⟩,
    ⟨_, exec_pqUnpause ack chan s, applyPause_effect (by simp [pausedAfter]) ack chan⟩,
    exec_pqQuitsent s⟩

/-! ## O20: the request on the bits of its word -/

/-- A legal pause word is the quit sentinel or applies the request of its kind bits, with the `ack` and `chan` of its own
(30_encoding R105). -/
theorem exec_of_decodePq {q : BitVec 16} {i : Instr} (h : decodePq q = .instr i) :
    (q.extractLsb' 0 2 = 0b11#2 ∧ i = .pqQuitsent) ∨
      ∃ k, q.extractLsb' 0 2 = pauseKindBits k ∧
        ∀ s, exec i s = .next (applyPause k (q.getLsbD 2) (q.extractLsb' 8 8) s) := by
  unfold decodePq at h
  split at h
  · next hk =>
    split at h <;> cases h
    exact .inl ⟨(pauseKindOf_none_iff _).1 hk, rfl⟩
  · next k hk =>
    refine .inr ⟨k, (pauseKindBits_of hk).symm, fun s => ?_⟩
    split at h
    · cases k <;> cases h <;> rfl
    · cases h

/-- Settles O20: the sentinel keeps the state, and a request follows its kind bits, which are never the sentinel's. -/
theorem applyPauseByBits : Obligations.ApplyPauseByBits := by
  rintro s q ⟨i, hd⟩
  rcases exec_of_decodePq hd with ⟨hb, rfl⟩ | ⟨k, hb, he⟩
  · exact ⟨.pqQuitsent, s.paused, hd, by simp [hb], by simp [hb], by simp [hb], fun _ => rfl,
      by rw [if_neg (by simp [hb]), exec_pqQuitsent]⟩
  · have request : ¬q.extractLsb' 0 2 = 0b11#2 := by rw [hb]; cases k <;> decide
    refine ⟨i, pausedAfter k s.paused, hd, ?inverted, ?set, ?cleared, fun hq => absurd hq request, ?answer⟩
    case inverted | set | cleared => rw [hb]; cases k <;> simp [pauseKindBits, pausedAfter]
    case answer => rw [he, applyPause_eq]; simp only [ne_eq, request, not_false_eq_true, true_and]; rfl

/-! ## O23: scenario S3 -/

/-- Settles O23: the check takes the Pause and enters PWAIT, the wait takes the Unpause and, PWAIT_RET being 0, exits. -/
theorem pauseScenario : Obligations.PauseScenario := by
  intro s hr hp hq
  obtain ⟨t, ht, hcheck, -⟩ := (pauseChecks s).2 0x0001 [] (.pqPause false 0) hq rfl
  rw [exec_pqPause, applyPause_of_silent] at ht
  cases ht
  refine ⟨_, hcheck, rfl, rfl, rfl, by simp [State.schedulerEnabled, pausedAfter, hr], ?_⟩
  obtain ⟨u, hu, -, hwait⟩ := (pauseChecks { s with
    paused := true, pwaitRet := false, sphase := 0x5, pq := [0x0002] }).2 0x0002 [] (.pqUnpause false 0) rfl rfl
  rw [exec_pqUnpause, applyPause_of_silent] at hu
  cases hu
  rw [if_neg (by simp [hr])] at hwait
  exact ⟨_, hwait, rfl, rfl, _, exec_seqExitchk_of_running hr, rfl⟩

/-! ## O24: toggle parity -/

/-- A Pause or Unpause sets its level, whatever PAUSED was (43_pause R203, R204). -/
theorem exec_paused_of_level {i : Instr} {v : Bool} {s t : State} (hv : pauseLevel i = some v) (h : exec i s = .next t) :
    t.paused = v := by
  cases i <;> cases hv
  all_goals
    cases h
    exact applyPause_paused ..

/-- A pause word without a level inverts PAUSED if it is a toggle and keeps it if it is the sentinel (R202, R205). -/
theorem exec_paused_of_no_level {i : Instr} {s t : State} (hi : isPauseInstr i = true) (hv : pauseLevel i = none)
    (h : exec i s = .next t) : t.paused = (s.paused ^^ isToggle i) := by
  cases i <;> cases hi <;> cases hv
  · cases h
    exact (applyPause_paused ..).trans (Bool.xor_true _).symm
  · cases h
    exact (Bool.xor_false _).symm

theorem execAll_answers (l : List Instr) (s : State) : ∃ t, execAll l s = .next t := by
  induction l generalizing s with
  | nil => exact ⟨s, rfl⟩
  | cons i l ih =>
    obtain ⟨u, hu⟩ := exec_answers i s
    rw [execAll, hu]
    exact ih u

/-- One more toggle inverts the parity of the toggles. -/
theorem toggleParity_cons (i : Instr) (l : List Instr) :
    decide ((i :: l).countP isToggle % 2 = 1) = (isToggle i ^^ decide (l.countP isToggle % 2 = 1)) := by
  rw [List.countP_cons]
  cases isToggle i
  · simp
  · rcases Nat.mod_two_eq_zero_or_one (l.countP isToggle) with h | h <;> simp [Nat.add_mod, h]

/-- Pause words without a level XOR the parity of their toggles into PAUSED. -/
theorem execAll_paused_of_no_level {l : List Instr} {s : State}
    (hl : l.all (fun i => isPauseInstr i && (pauseLevel i).isNone) = true) :
    ∃ t, execAll l s = .next t ∧ t.paused = (s.paused ^^ decide (l.countP isToggle % 2 = 1)) := by
  induction l generalizing s with
  | nil => exact ⟨s, rfl, by simp⟩
  | cons i l ih =>
    simp only [List.all_cons, Bool.and_eq_true, Option.isNone_iff_eq_none] at hl
    obtain ⟨⟨hi, hv⟩, hl⟩ := hl
    obtain ⟨u, hu⟩ := exec_answers i s
    obtain ⟨t, ht, hp⟩ := ih (s := u) hl
    refine ⟨t, by rw [execAll, hu]; exact ht, ?_⟩
    rw [hp, exec_paused_of_no_level hi hv hu, toggleParity_cons, Bool.xor_assoc]

/-- What a run leaves in PAUSED up to its last Pause or Unpause: that request's level. -/
theorem execAll_paused_of_last_level {init : List Instr} {p : Instr} {v : Bool} (hv : pauseLevel p = some v) (s : State) :
    ∃ t, execAll (init ++ [p]) s = .next t ∧ t.paused = v := by
  obtain ⟨u, hu⟩ := execAll_answers init s
  obtain ⟨t, ht⟩ := exec_answers p u
  refine ⟨t, ?_, exec_paused_of_level hv ht⟩
  simp only [execAll_append, hu, execAll, ht]

/-- Settles O24: the run up to the last level leaves that level, and the toggles after it XOR their parity into it. -/
theorem toggleParity : Obligations.ToggleParity := by
  intro s before after v hs _ hafter hlast
  have level : ∃ u, execAll before s = .next u ∧ u.paused = v := by
    rcases hlast with ⟨rfl, rfl⟩ | ⟨init, p, rfl, hv⟩
    · exact ⟨s, rfl, hs⟩
    · exact execAll_paused_of_last_level hv s
  obtain ⟨u, hu, rfl⟩ := level
  obtain ⟨t, ht, hp⟩ := execAll_paused_of_no_level (s := u) hafter
  exact ⟨t, by simp only [execAll_append, hu, ht], hp⟩

end Sys2Proof.Machine

/-!
The events family (44_events R220-R239). The handshake invariant (O54) is read off the agents' cases through the fields it
speaks of: CPHASE, SPHASE, PQ and the mailbox. The events, C_FETCH, the two acknowledgement states and the host's event port
then each have one equation per case, from which their statements follow.
-/
namespace Sys2Proof.Machine

/-! ## O54: the save and load handshake -/

/-- No word of `l` asks for an acknowledgement in the consumer's mailbox. -/
def NoneAsks (l : List (BitVec 16)) : Prop := ∀ q ∈ l, asksMailbox q = false

/-- The handshake's request still waits, last in PQ, and the mailbox is empty (44_events R227). -/
def RequestWaits (s : State) : Prop :=
  s.ackValid = false ∧ ∃ pre, s.pq = pre ++ [handshakeWord] ∧ NoneAsks pre

/-- The request was acknowledged: PQ is empty, and the scheduler stands in PWAIT or HALT (70_reset_and_hazards R340). -/
def RequestAnswered (s : State) : Prop :=
  s.ackValid = true ∧ s.pq = [] ∧ (s.sphase = SPhase.pwait ∨ s.sphase = SPhase.halt)

theorem NoneAsks.append {l : List (BitVec 16)} {q : BitVec 16} (h : NoneAsks l) (hq : asksMailbox q = false) :
    NoneAsks (l ++ [q]) :=
  List.forall_mem_append.2 ⟨h, List.forall_mem_singleton.2 hq⟩

theorem NoneAsks.tail {l : List (BitVec 16)} (h : NoneAsks l) : NoneAsks l.tail := fun q k => h q (List.mem_of_mem_tail k)

/-- A legal PAUSE event asks for no acknowledgement on channel 0 (30_encoding R104). -/
theorem asksMailbox_pauseWord {ack : Bool} {chan : Byte} (kind : PauseKind) (h : ackMatchesChan ack chan = true) :
    asksMailbox (pauseWord kind ack chan) = false := by
  rw [asksMailbox, pauseWord_ack, pauseWord_chan]
  cases ack with
  | false => rfl
  | true => simpa using ((ackMatchesChan_iff true chan).1 h).1 rfl

theorem HandshakeSound.of_outside {s : State} (hp : s.cphase ≠ CPhase.saveAck ∧ s.cphase ≠ CPhase.loadAck)
    (ha : s.ackValid = false) (hq : NoneAsks s.pq ∨ s.cphase = CPhase.halt ∧ s.sphase = SPhase.halt) : HandshakeSound s :=
  ⟨fun _ _ => ⟨ha, hq⟩, fun k => (k.elim hp.1 hp.2).elim⟩

theorem HandshakeSound.of_inside {s : State} (hp : s.cphase = CPhase.saveAck ∨ s.cphase = CPhase.loadAck)
    (h : RequestWaits s ∨ RequestAnswered s) : HandshakeSound s :=
  ⟨fun h1 h2 => (hp.elim h1 h2).elim, fun _ => h⟩

/-- The consumer is outside a handshake or inside one. -/
theorem HandshakeSound.cases {s : State} (h : HandshakeSound s) :
    ((s.cphase ≠ CPhase.saveAck ∧ s.cphase ≠ CPhase.loadAck) ∧ s.ackValid = false ∧
        (NoneAsks s.pq ∨ s.cphase = CPhase.halt ∧ s.sphase = SPhase.halt)) ∨
      ((s.cphase = CPhase.saveAck ∨ s.cphase = CPhase.loadAck) ∧ (RequestWaits s ∨ RequestAnswered s)) := by
  by_cases hp : s.cphase = CPhase.saveAck ∨ s.cphase = CPhase.loadAck
  · exact .inr ⟨hp, h.inside hp⟩
  · rw [not_or] at hp
    exact .inl ⟨hp, h.outside hp.1 hp.2⟩

/-- The handshake's soundness is a matter of four fields. -/
theorem HandshakeSound.of_same {s t : State} (hs : HandshakeSound s) (hc : t.cphase = s.cphase)
    (hp : t.sphase = s.sphase) (ha : t.ackValid = s.ackValid) (hq : t.pq = s.pq) : HandshakeSound t := by
  constructor <;> rw [hc, hp, ha, hq]
  · exact hs.outside
  · exact hs.inside

/-- The scheduler answers the handshake's request: PAUSED is set, the mailbox filled (43_pause R203, R206). -/
theorem takePause_handshakeWord {s : State} (h : s.pq = [handshakeWord]) :
    takePause s = { s with paused := true, ackValid := true, ackVal := true != s.paused, pq := [] } := by
  simp only [takePause, h]
  rfl

/-- A check that finds no request for the mailbox at the head of PQ leaves the mailbox alone. -/
theorem takePause_ackValid_of_noneAsks {s : State} (h : ∀ q ∈ s.pq.head?, asksMailbox q = false) :
    (takePause s).ackValid = s.ackValid := by
  unfold takePause
  cases hq : s.pq with
  | nil => rfl
  | cons q rest => exact onPauseWord_mailbox q _ (h q (by simp [hq]))

/-- What a pause check of PCHECK or PWAIT does to the fields of the handshake: a check that finds or leaves the scheduler
waiting does not let it run on (42_scheduler R175, R176). -/
structure HandshakeCheck (s t : State) : Prop where
  notHalt : s.sphase ≠ SPhase.halt
  ackValid : t.ackValid = (takePause s).ackValid
  pq : t.pq = s.pq.tail
  waits : (takePause s).paused = true ∨ (s.sphase = SPhase.pwait ∧ s.pq = []) →
    t.sphase = SPhase.pwait ∨ t.sphase = SPhase.halt

theorem checkedPause_handshake {s : State} (hp : s.sphase = SPhase.pcheck) :
    HandshakeCheck s (checkedPause (takePause s)) := by
  refine ⟨by simp [hp], ?_, ?_, ?_⟩
  · unfold checkedPause
    split <;> rfl
  · unfold checkedPause
    split <;> exact takePause_pq s
  · rintro (k | ⟨k, -⟩)
    · exact .inl ((checkedPause_sphase _).trans (if_pos k))
    · simp [hp] at k

theorem waitedPause_handshake {s : State} (hp : s.sphase = SPhase.pwait) (hw : s.pq ≠ [] ∨ s.running = false) :
    HandshakeCheck s (waitedPause (takePause s)) := by
  refine ⟨by simp [hp], ?_, (waitedPause_pq _).trans (takePause_pq s), ?_⟩
  · unfold waitedPause
    split_ifs <;> rfl
  · intro k
    unfold waitedPause
    split
    · exact .inr rfl
    · next hr =>
      rw [takePause_running] at hr
      have hpaused : (takePause s).paused = true := k.resolve_right fun ⟨_, hq⟩ => hr (hw.resolve_left (· hq))
      rw [if_pos hpaused, takePause_sphase]
      exact .inl hp

/-- A scheduler step changes nothing, leaves PQ and the mailbox as they are from a state that is neither PWAIT nor HALT, or
checks for a pause request. -/
theorem SchedCase.handshakeCases {s t : State} (h : SchedCase s t) :
    t = s ∨ (s.sphase ≠ SPhase.pwait ∧ s.sphase ≠ SPhase.halt ∧ t.ackValid = s.ackValid ∧ t.pq = s.pq) ∨
      HandshakeCheck s t := by
  cases h with
  | stay h => exact .inl h
  | move p hm h => subst h; cases hm <;> simp [*]
  | cpu r u hp hr hq hd hu hwf h =>
    refine .inr (.inl ⟨by simp [hp], by simp [hp], ?_⟩)
    rcases cpuReturned_cases r u with ⟨code, k⟩ | ⟨latch, k⟩ <;> rw [h, k] <;> exact ⟨hu.ackValid, hu.pq⟩
  | ppu sl r u hp hq hm hu hwf h =>
    refine .inr (.inl ⟨by simp [hp], by simp [hp], ?_⟩)
    rw [h, ppuReturned_eq]
    exact ⟨hu.ackValid, hu.pq⟩
  | sample r hp hd hm h =>
    refine .inr (.inl ⟨by simp [hp], by simp [hp], ?_⟩)
    rw [h, sampleReturned_eq]
    exact ⟨rfl, rfl⟩
  | check hp h => exact .inr (.inr (h ▸ checkedPause_handshake hp))
  | wait hp hw h => exact .inr (.inr (h ▸ waitedPause_handshake hp hw))

/-- A check takes one word: outside a handshake it asks for no mailbox, inside one it is the request or a word before it. -/
theorem HandshakeCheck.sound {s t : State} (h : HandshakeCheck s t) (hc : t.cphase = s.cphase) (hs : HandshakeSound s) :
    HandshakeSound t := by
  rcases hs.cases with ⟨hp, ha, hq⟩ | ⟨hp, ⟨ha, pre, hpq, hpre⟩ | ⟨ha, hpq, hsp⟩⟩
  · have hq : NoneAsks s.pq := hq.resolve_right fun k => h.notHalt k.2
    have mailbox := takePause_ackValid_of_noneAsks fun q k => hq q (List.mem_of_mem_head? k)
    exact .of_outside (hc ▸ hp) (by rw [h.ackValid, mailbox, ha]) (.inl (h.pq ▸ hq.tail))
  · refine .of_inside (hc ▸ hp) ?_
    cases pre with
    | nil =>
      have answer := takePause_handshakeWord hpq
      exact .inr ⟨by rw [h.ackValid, answer], by rw [h.pq, hpq]; rfl, h.waits (.inl (by rw [answer]))⟩
    | cons q pre =>
      have mailbox : (takePause s).ackValid = s.ackValid :=
        takePause_ackValid_of_noneAsks (by simpa [hpq] using hpre q (by simp))
      exact .inl ⟨by rw [h.ackValid, mailbox, ha], pre, by rw [h.pq, hpq]; rfl, hpre.tail⟩
  · have mailbox : (takePause s).ackValid = s.ackValid := takePause_ackValid_of_noneAsks (by simp [hpq])
    exact .of_inside (hc ▸ hp) (.inr ⟨by rw [h.ackValid, mailbox, ha], by rw [h.pq, hpq]; rfl,
      h.waits (.inr ⟨hsp.resolve_right h.notHalt, hpq⟩)⟩)

theorem SchedCase.handshakeSound {s t : State} (h : SchedCase s t) (hs : HandshakeSound s) : HandshakeSound t := by
  obtain ⟨-, -, -, -, -, -, -, -, hc, -⟩ := h.effect.unwritten
  rcases h.handshakeCases with rfl | ⟨hwait, hhalt, ha', hq'⟩ | hk
  · exact hs
  · rcases hs.cases with ⟨hp, ha, hq⟩ | ⟨hp, hw | ⟨-, -, hsp⟩⟩
    · exact .of_outside (hc ▸ hp) (ha'.trans ha) (.inl (hq' ▸ hq.resolve_right fun k => hhalt k.2))
    · refine .of_inside (hc ▸ hp) (.inl ?_)
      rwa [RequestWaits, ha', hq']
    · exact (hsp.elim hwait hhalt).elim
  · exact hk.sound hc hs

/-- The end of an acknowledged handshake leaves at most the resume on PQ, which asks for nothing (44_events R234). -/
theorem handshakeSound_endHandshake {code : SnapStatus} {changed : Bool} {s : State} (ha : s.ackValid = false)
    (hq : s.pq = []) : HandshakeSound (endHandshake code changed s) := by
  rw [endHandshake_eq]
  refine .of_outside (by simp) ha (.inl ?_)
  rw [hq]
  cases changed with
  | false => exact nofun
  | true => exact NoneAsks.append nofun rfl

/-- A consumer that waits for an acknowledgement and finds one finds PQ empty. -/
theorem HandshakeSound.pq_nil {s : State} (hs : HandshakeSound s)
    (hp : s.cphase = CPhase.saveAck ∨ s.cphase = CPhase.loadAck) (ha : s.ackValid = true) : s.pq = [] := by
  rcases hs.inside hp with ⟨hn, -⟩ | ⟨-, hq, -⟩
  · simp [hn] at ha
  · exact hq

/-- A handler run by C_FETCH pushes no request for the mailbox, or it begins a handshake (44_events R226-R229). -/
theorem EntryCase.handshakeSound {e : EvEntry} {s t : State} (h : EntryCase e s t) (hp : s.cphase = CPhase.fetch)
    (ha : s.ackValid = false) (hq : NoneAsks s.pq) : HandshakeSound t := by
  have quiet {u : State} (hc : u.cphase = CPhase.fetch) (hu : u.ackValid = false) (hn : NoneAsks u.pq) :
      HandshakeSound u := .of_outside (by simp [hc]) hu (.inl hn)
  cases h with
  | pause kind ack chan hd h =>
    have tie : ackMatchesChan ack chan = true := (encode_of_decodeEv hd).2
    subst h
    exact quiet hp ha (hq.append (asksMailbox_pauseWord kind tie))
  | quit hd h => subst h; exact quiet hp ha (hq.append rfl)
  | save hd h => subst h; exact .of_inside (.inl rfl) (.inl ⟨ha, s.pq, rfl, hq⟩)
  | load img hd h => subst h; exact .of_inside (.inr rfl) (.inl ⟨ha, s.pq, rfl, hq⟩)
  | _ => subst t; exact quiet hp ha hq

theorem ConsCase.handshakeSound {s t : State} (h : ConsCase s t) (hs : HandshakeSound s) : HandshakeSound t := by
  have fetching (hp : s.cphase = CPhase.fetch) : s.ackValid = false ∧ NoneAsks s.pq := by
    obtain ⟨ha, hq⟩ := hs.outside (by simp [hp]) (by simp [hp])
    exact ⟨ha, hq.resolve_right (by simp [hp])⟩
  cases h with
  | stay h => exact h ▸ hs
  | quit hp hr h =>
    obtain ⟨ha, hq⟩ := fetching hp
    subst h
    exact .of_outside (by simp) ha (.inl hq)
  | entry e rest hp hr he hroom h =>
    obtain ⟨ha, hq⟩ := fetching hp
    exact h ▸ (entryCase e { s with evq := rest }).handshakeSound hp ha hq
  | abort hp hh h => subst h; exact .of_outside (by simp [abortHandshake]) rfl (.inr ⟨rfl, hh⟩)
  | save hp ha hh h => exact h ▸ handshakeSound_endHandshake rfl (hs.pq_nil (.inl hp) ha)
  | load hp ha hh h =>
    have hq := hs.pq_nil (.inr hp) ha
    rcases finishLoad_cases s with ⟨code, -, k⟩ | ⟨r, -, k⟩ <;> rw [h, k] <;> exact handshakeSound_endHandshake rfl hq

/-- START finds the consumer in C_IDLE, with PQ and the mailbox empty; no other control word writes a field of the
handshake. -/
theorem CtlCase.handshakeSound {s t : State} (h : CtlCase s t) (hl : Lifecycle s) (hs : HandshakeSound s) :
    HandshakeSound t := by
  cases h with
  | start hb h =>
    obtain ⟨-, -, -, hc, hq, -⟩ := hl.preStart ((busy_false_iff s).1 hb).2
    obtain ⟨ha, -⟩ := hs.outside (by simp [hc]) (by simp [hc])
    subst h
    exact .of_outside (by simp) ha (.inl (hq ▸ (nofun : NoneAsks [])))
  | mapAdd sp dev lo hi hb hdev hk hr ha hlen h => subst h; exact hs.of_same (by simp) (by simp) (by simp) (by simp)
  | _ => subst t; exact hs.of_same rfl rfl rfl rfl

/-- Settles O54: the consumer asks for the mailbox only by beginning a handshake, whose request the scheduler takes last and
answers by a pause that holds until the handshake ends. -/
theorem handshakeKept : Obligations.HandshakeKept := by
  intro s t hl hs h
  refine step_ind (P := fun s t => Lifecycle s → HandshakeSound s → HandshakeSound t) ?_ ?_ ?_ ?_ ?_ ?_ ?_ ?_ h hl hs
  · exact fun s t h _ => h.handshakeSound
  · exact fun s t h _ => h.handshakeSound
  · exact fun s t h => h.handshakeSound
  · exact fun s u v hu _ _ hs => hs.of_same hu.cphase hu.sphase hu.ackValid hu.pq
  · intro s w img _ hs
    rcases hostPush_cases w img s with k | ⟨-, k⟩ <;> rw [k] <;> exact hs.of_same rfl rfl rfl rfl
  · exact fun s _ => id
  · exact fun s t _ _ _ h hl hs => h ⟨hl.preStart, hl.running, hl.faulted⟩ (hs.of_same rfl rfl rfl rfl)
  · exact fun s t h hl hs => h ⟨hl.preStart, hl.running, hl.faulted⟩ (hs.of_same rfl rfl rfl rfl)

/-! ## O6, O9: the events that write their result at once -/

/-- Settles O6: each of the five handlers is one record update. -/
theorem simpleEventsComplete : Obligations.SimpleEventsComplete := fun _ _ _ _ _ => ⟨rfl, rfl, rfl, rfl, rfl⟩

/-- Settles O9: the three handlers that push a fixed word are one record update each. -/
theorem handshakeAndQuitEvents : Obligations.HandshakeAndQuitEvents := fun _ _ => ⟨rfl, rfl, rfl⟩

/-! ## O7: INPUT -/

theorem onInput_port0 (button : BitVec 3) (down : Bool) (s : State) :
    onInput 0 button down s = { s with ctrl0 := withButton s.ctrl0 button down } := rfl

theorem onInput_port1 (button : BitVec 3) (down : Bool) (s : State) :
    onInput 1 button down s = { s with ctrl1 := withButton s.ctrl1 button down } := rfl

/-- Settles O7: the latch of the named port is written with one of its bits changed, the other latch is kept. -/
theorem inputWritesOneButton : Obligations.InputWritesOneButton := by
  intro s port button down
  have ports : port = 0 ∨ port = 1 := by revert port; decide
  refine ⟨onInput port button down s, rfl, ?_⟩
  rcases ports with rfl | rfl
  · rw [onInput_port0]
    refine ⟨rfl, fun b hb => ?written, fun b _ => (if_neg (by simp)).symm⟩
    case written => simpa only [true_and] using withButton_getLsbD s.ctrl0 button down b hb
  · rw [onInput_port1]
    refine ⟨rfl, fun b _ => (if_neg (by simp)).symm, fun b hb => ?written⟩
    case written => simpa only [true_and] using withButton_getLsbD s.ctrl1 button down b hb

/-! ## O8: PAUSE -/

/-- Settles O8: the word pushed is the encoder's pause word, which the decoder reads back. -/
theorem pauseEventForwarded : Obligations.PauseEventForwarded := by
  intro s kind ack chan
  refine ⟨pauseWord kind ack chan, rfl, pauseWord_chan .., pauseWord_zero .., pauseWord_ack .., ?kind, ?decoded⟩
  case kind =>
    rw [pauseWord_kind]
    cases kind <;> rfl
  case decoded => cases kind <;> exact decodePq_encode rfl

/-! ## O10, O11, O12: C_FETCH -/

/-- The entries whose handler pushes a pause word (44_events R220). -/
theorem pushesPause_iff (e : EvEntry) :
    pushesPause e = true ↔
      (∃ k ack chan, decodeEv e = .instr (.evPause k ack chan)) ∨ decodeEv e = .instr .evSavestate ∨
        (∃ img, decodeEv e = .instr (.evLoadstate img)) ∨ decodeEv e = .instr .evQuit := by
  unfold pushesPause
  split <;> simp_all

/-- A popped entry that decodes does what its instruction does (44_events R222). -/
theorem exec_of_decodeEv {e : EvEntry} {i : Instr} (h : decodeEv e = .instr i) (s : State) :
    exec i s = .next (onEntry e s) := by
  unfold onEntry
  rw [h]
  rcases decodeEv_cases h with ⟨_, _, rfl⟩ | ⟨_, rfl⟩ | ⟨_, _, _, rfl⟩ | ⟨_, _, _, rfl, -⟩ | rfl | ⟨_, rfl⟩ | rfl | rfl |
    rfl | ⟨_, rfl⟩ <;> rfl

/-- A popped entry that does not decode is discarded (44_events R233). -/
theorem onEntry_of_reject {e : EvEntry} {why : Illegal} (h : decodeEv e = .reject why) (s : State) :
    onEntry e s = { s with evIllegal := true } := by
  unfold onEntry
  rw [h]
  rfl

section
variable {s : State} {e : EvEntry} {rest : List EvEntry} (hr : s.running = true) (he : s.evq = e :: rest)
include hr he

/-- A running consumer pops the head of EVQ if its handler has room for its push. -/
theorem exec_seqCFetch_of_room (hroom : pushesPause e = true → s.pqRoom = true) :
    exec .seqCFetch s = .next (onEntry e { s with evq := rest }) := by
  have free : (pushesPause e && !s.pqRoom) = false := by
    cases hp : pushesPause e
    · rfl
    · rw [hroom hp]
      rfl
  simp only [exec, execSeqCFetch, hr, he, free]
  rfl

/-- A head whose handler has no room for its push stays. -/
theorem exec_seqCFetch_of_full (hp : pushesPause e = true) (hfull : s.pqRoom = false) : exec .seqCFetch s = .next s := by
  simp only [exec, execSeqCFetch, hr, he, hp, hfull]
  rfl

end

/-- Settles O10: with room for its push the head is popped and its handler, which is its instruction's meaning, run. -/
theorem fetchRunsHandler : Obligations.FetchRunsHandler := by
  intro s e rest i hr he hd hroom
  refine ⟨_, exec_of_decodeEv hd _, exec_seqCFetch_of_room hr he fun hp => hroom ?_⟩
  simpa only [hd, Decoded.instr.injEq] using (pushesPause_iff e).1 hp

/-- Settles O11: an entry of no row is rejected, and a rejected entry pushes nothing and is discarded. -/
theorem illegalEventDiscarded : Obligations.IllegalEventDiscarded := by
  intro s e rest hr he hillegal
  cases hd : decodeEv e with
  | instr i => exact absurd ((eventLegalIffRow e).1 ⟨i, hd⟩) hillegal
  | reject why =>
    have pushesNothing : ¬pushesPause e = true := by simp [pushesPause_iff, hd]
    rw [exec_seqCFetch_of_room hr he fun hp => absurd hp pushesNothing, onEntry_of_reject hd]

/-- Settles O12: the three turns of C_FETCH that pop nothing. -/
theorem fetchQuitsOrWaits : Obligations.FetchQuitsOrWaits := by
  intro s
  refine ⟨fun hr => ?quits, fun hr he => ?empty, fun hr hfull e rest he hpush => ?full⟩
  case quits => simp [exec, execSeqCFetch, hr]
  case empty => simp [exec, execSeqCFetch, hr, he]
  case full => exact exec_seqCFetch_of_full hr he ((pushesPause_iff e).2 hpush) hfull

/-! ## O13, O14, O17: C_SAVE_ACK and C_LOAD_ACK -/

section
variable {s : State}

/-- A handshake that was not acknowledged waits while the scheduler runs. -/
theorem exec_handshake_waits {i : Instr} (hi : i = .seqCSaveAck ∨ i = .seqCLoadAck) (ha : s.ackValid = false)
    (hh : s.sphase ≠ SPhase.halt) : exec i s = .next s := by
  have waits : s.handshakeReady = false := by simpa [State.handshakeReady, ha] using hh
  rcases hi with rfl | rfl
  · simp only [exec, execSeqCSaveAck, if_pos waits]
  · simp only [exec, execSeqCLoadAck, if_pos waits]

/-- A handshake is cut short once the scheduler has halted, acknowledged or not. -/
theorem exec_handshake_aborts {i : Instr} (hi : i = .seqCSaveAck ∨ i = .seqCLoadAck) (hh : s.sphase = SPhase.halt) :
    exec i s = .next (abortHandshake s) := by
  have ready : ¬s.handshakeReady = false := by simp [(handshakeReady_iff s).2 (.inr hh)]
  rcases hi with rfl | rfl
  · simp only [exec, execSeqCSaveAck, if_neg ready, if_pos hh]
  · simp only [exec, execSeqCLoadAck, if_neg ready, if_pos hh]

theorem exec_seqCSaveAck_finishes (ha : s.ackValid = true) (hh : s.sphase ≠ SPhase.halt) :
    exec .seqCSaveAck s = .next (finishSave s) := by
  have ready : ¬s.handshakeReady = false := by simp [(handshakeReady_iff s).2 (.inl ha)]
  simp only [exec, execSeqCSaveAck, if_neg ready, if_neg hh]

theorem exec_seqCLoadAck_finishes (ha : s.ackValid = true) (hh : s.sphase ≠ SPhase.halt) :
    exec .seqCLoadAck s = .next (finishLoad s) := by
  have ready : ¬s.handshakeReady = false := by simp [(handshakeReady_iff s).2 (.inl ha)]
  simp only [exec, execSeqCLoadAck, if_neg ready, if_neg hh]

/-- The image a load reads is the one its event carries (44_events R228). -/
theorem curImage_of_curEv {e : EvEntry} {img : Image} (he : s.curEv = some e) (hi : e.img = some img) :
    s.curImage = img := by
  simp [State.curImage, he, hi]

/-- A load whose image passes every check applies its record whole (45_snapshot R264). -/
theorem finishLoad_of_loaded {r : SnapRecord} (h : checkImage s.region s.curImage = (.loaded, some r)) :
    finishLoad s = endHandshake .loaded s.ackVal (applyRecord r { s with ackValid := false }) := by
  simp only [finishLoad, loadImage, h]

end

/-- An archive of the right version whose state decodes to a record that fits passes every check (45_snapshot R263). -/
theorem checkImage_of_fits {region : Region} {b : SnapBytes} {r : SnapRecord} (hd : snapDecode b = some r)
    (hf : recordFits region r = true) :
    checkImage region (.archive (some ⟨Config.snapVersion⟩) (some b)) = (.loaded, some r) := by
  simp [checkImage, hd, hf]

/-- Settles O17: a turn of either acknowledgement state waits or aborts. -/
theorem handshakeWaitsOrAborts : Obligations.HandshakeWaitsOrAborts := fun _ _ hi =>
  ⟨exec_handshake_waits hi, exec_handshake_aborts hi⟩

/-- Settles O13: an acknowledged save is `finishSave`, and the image it emits is the capture of the record. -/
theorem saveCompletes : Obligations.SaveCompletes := by
  intro s ha hh
  rw [exec_seqCSaveAck_finishes ha hh, finishSave_eq]
  rfl

/-- Settles O14: the image passes every check, so its record is applied and the handshake ends as LOADED. -/
theorem loadCompletes : Obligations.LoadCompletes := by
  intro s e b r ha hh he himg hd hratio hquota
  have fits : recordFits s.region r = true := (recordFits_iff s.region r).2 ⟨hratio, hquota⟩
  have check : checkImage s.region s.curImage = (.loaded, some r) := by
    rw [curImage_of_curEv he himg]
    exact checkImage_of_fits hd fits
  rw [exec_seqCLoadAck_finishes ha hh, finishLoad_of_loaded check, endHandshake_eq]
  rfl

/-! ## O43: the host's event port -/

/-- The first entry of a list without a property, if there is one. -/
theorem forall_or_exists_first {α : Type} (p : α → Prop) (l : List α) :
    (∀ x ∈ l, p x) ∨ ∃ before x after, l = before ++ x :: after ∧ (∀ y ∈ before, p y) ∧ ¬p x := by
  induction l with
  | nil => exact .inl nofun
  | cons y l ih =>
    by_cases hy : p y
    · rcases ih with h | ⟨before, x, after, rfl, hb, hx⟩
      · exact .inl (List.forall_mem_cons.2 ⟨hy, h⟩)
      · exact .inr ⟨y :: before, x, after, rfl, List.forall_mem_cons.2 ⟨hy, hb⟩, hx⟩
    · exact .inr ⟨[], y, l, rfl, nofun, hy⟩

/-- On its turn the host takes a command, or all that waits is blocked and it has none (log 4). -/
theorem hostTakes_or_idle {s : State} (hb : s.busReq = none) (ht : s.turn = .host) :
    (∃ c port, HostTakes s c port) ∨ (∀ b ∈ s.hostPort, Blocked s b) ∧ Config.hostInput s.tick = none := by
  rcases forall_or_exists_first (Blocked s) s.hostPort with hbl | ⟨before, c, rest, hp, hbl, hc⟩
  · cases hi : Config.hostInput s.tick with
    | none => exact .inr ⟨hbl, rfl⟩
    | some c => exact .inl ⟨c, s.hostPort, hb, ht, .inr ⟨hbl, hi, rfl⟩⟩
  · exact .inl ⟨c, before ++ rest, hb, ht, .inl ⟨before, rest, hp, rfl, hbl, hc⟩⟩

/-- A host without a command passes its turn. -/
theorem step_of_host_idle {s : State} (hb : s.busReq = none) (ht : s.turn = .host) (hbl : ∀ b ∈ s.hostPort, Blocked s b)
    (hi : Config.hostInput s.tick = none) : step s = .next s.pass := by
  rw [step, fetch_host hb ht, fetchHost, (takeCmd_none _ _).2 hbl, hi]

/-- The command the host takes leaves a blocked one at the head of its ports there. -/
theorem HostTakes.port_of_blocked {s : State} {c d : HostCmd} {port rest : List HostCmd} (h : HostTakes s c port)
    (hp : s.hostPort = d :: rest) (hd : Blocked s d) : ∃ left, port = d :: left := by
  obtain ⟨-, -, ⟨before, after, hs, rfl, -, hc⟩ | ⟨-, -, rfl⟩⟩ := h
  · cases before with
    | nil =>
      obtain ⟨rfl, -⟩ := List.cons.inj (hs.symm.trans hp)
      exact absurd hd hc
    | cons b before =>
      obtain ⟨rfl, -⟩ := List.cons.inj (hs.symm.trans hp)
      exact ⟨before ++ after, rfl⟩
  · exact ⟨rest, hp⟩

/-- A host step that takes a push: it waits without room on EVQ, a FRAME or SAMPLE is refused, any other word pushed. -/
theorem step_of_hostTakes_push {s : State} {w : BitVec 32} {img : Option Image} {port : List HostCmd}
    (h : HostTakes s (.push w img) port) : step s = .next (
      if s.evqRoom = false then { s.pass with hostPort := port ++ [.push w img] }
      else hostPush w img { s.pass with hostPort := port }) := by
  rw [step_of_hostTakes h, fetchCmd, show State.evqRoom { s.pass with hostPort := port } = s.evqRoom from rfl]
  cases s.evqRoom <;> rfl

/-- A host step that takes a control word leaves EVQ, HOST_REFUSED and what else waits at its ports (10_state R58). -/
theorem step_of_hostTakes_control {s : State} {c : BitVec 64} {port : List HostCmd} (h : HostTakes s (.ctl c) port) :
    ∃ t, step s = .next t ∧ t.evq = s.evq ∧ t.hostRefused = s.hostRefused ∧ t.hostPort = port := by
  cases hd : decodeCtl c with
  | reject why => exact ⟨_, step_of_hostTakes_reject h hd, rfl, rfl, rfl⟩
  | instr i =>
    obtain ⟨t, ht⟩ := exec_answers i { s.pass with hostPort := port }
    have writes := (ctlCase_of_exec hd ht).writes
    refine ⟨t, (step_of_hostTakes_ctl h hd).trans ht, ?_⟩
    rw [writes]
    exact ⟨rfl, rfl, rfl⟩

/-- Settles O43: a push is taken by `step_of_hostTakes_push`; one that waits for room stays at the head of the port whatever
the host does instead. -/
theorem hostPush_holds : Obligations.HostPush := by
  intro s w img port
  refine ⟨fun h => ?taken, fun hb ht hfull hp => ?waiting⟩
  case taken =>
    rw [step_of_hostTakes_push h, hostPush]
    rfl
  case waiting =>
    rcases hostTakes_or_idle hb ht with ⟨c, left, h⟩ | ⟨hbl, hi⟩
    · obtain ⟨left, rfl⟩ := h.port_of_blocked hp ⟨⟨w, img, rfl⟩, hfull⟩
      cases c with
      | ctl c =>
        obtain ⟨t, hstep, hev, href, hport⟩ := step_of_hostTakes_control h
        exact ⟨t, left, hstep, hev, href, hport⟩
      | push w' img' =>
        rw [step_of_hostTakes_push h, if_pos hfull]
        exact ⟨_, _, rfl, rfl, rfl, rfl⟩
    · exact ⟨s.pass, port, step_of_host_idle hb ht hbl hi, rfl, rfl, hp⟩

end Sys2Proof.Machine

/-!
The snapshot family (45_snapshot R260-R267). A load is refused by the first check its image fails (O15, O16), what a save emits
is accepted again and brings every captured field back (O18), and a scheduler step reads and writes what a snapshot and the
configuration hold, whatever the rest of the block is (O19).
-/
namespace Sys2Proof.Machine

/-! ## O15, O16: the checks of a load, each where it fails first -/

theorem checkImage_of_ioError (region : Region) : checkImage region .ioError = (.errIo, none) := rfl

/-- An archive without a `meta` entry fails the version check as one of another version does. -/
theorem checkImage_of_version {info : Option SnapMeta} (h : info ≠ some ⟨"0.2"⟩) (region : Region) (st : Option SnapBytes) :
    checkImage region (.archive info st) = (.errVersion, none) := by
  cases info with
  | none => rfl
  | some m =>
    have differs : (m.version != Config.snapVersion) = true := bne_iff_ne.2 fun hv => h (congrArg (some ∘ SnapMeta.mk) hv)
    simp only [checkImage, differs, if_true]

theorem checkImage_of_missing (region : Region) :
    checkImage region (.archive (some ⟨"0.2"⟩) none) = (.errMissing, none) := rfl

theorem checkImage_of_undecodable {b : SnapBytes} (h : snapDecode b = none) (region : Region) :
    checkImage region (.archive (some ⟨Config.snapVersion⟩) (some b)) = (.errDecode, none) := by
  simp [checkImage, h]

theorem checkImage_of_unfit {region : Region} {b : SnapBytes} {r : SnapRecord} (hd : snapDecode b = some r)
    (hf : ¬recordFits region r = true) :
    checkImage region (.archive (some ⟨Config.snapVersion⟩) (some b)) = (.errDecode, none) := by
  simp [checkImage, hd, hf]

/-- A load whose image fails a check applies nothing (45_snapshot R263). -/
theorem finishLoad_of_failed {s : State} {code : SnapStatus} (h : checkImage s.region s.curImage = (code, none)) :
    finishLoad s = endHandshake code s.ackVal { s with ackValid := false } := by
  simp only [finishLoad, loadImage, h]

/-- Settles O15: in each of the five cases the image fails its check with that code, and the handshake ends with it. -/
theorem loadFailsClosed : Obligations.LoadFailsClosed := by
  intro s e img code ha hh he himg hcase
  have check : checkImage s.region img = (code, none) := by
    rcases hcase with ⟨rfl, rfl⟩ | ⟨info, st, rfl, hinfo, rfl⟩ | ⟨rfl, rfl⟩ | ⟨b, rfl, hd, rfl⟩ |
      ⟨b, r, rfl, hd, hbad, rfl⟩
    · exact checkImage_of_ioError s.region
    · exact checkImage_of_version hinfo s.region st
    · exact checkImage_of_missing s.region
    · exact checkImage_of_undecodable hd s.region
    · refine checkImage_of_unfit hd fun fits => ?_
      obtain ⟨hratio, hquota⟩ := (recordFits_iff s.region r).1 fits
      rcases hbad with hbad | hbad
      · exact hbad hratio
      · exact absurd hquota (Nat.not_le.2 hbad)
  rw [← curImage_of_curEv he himg] at check
  rw [exec_seqCLoadAck_finishes ha hh, finishLoad_of_failed check, endHandshake_eq]
  rfl

/-- Settles O16: the version case of O15, whose next state keeps every captured field. -/
theorem versionGate : Obligations.VersionGate := by
  intro s e info st ha hh he himg hversion
  have differs : info ≠ some ⟨"0.2"⟩ := fun h => hversion _ h rfl
  exact ⟨_, loadFailsClosed s e _ .errVersion ha hh he himg (.inr (.inl ⟨info, st, rfl, differs, rfl⟩)), rfl, rfl, rfl⟩

/-! ## O18: a save, then a load -/

/-- The image an acknowledged save emits is the capture of its state. -/
theorem emitted_eq_captureImage {s t : State} {img : Image} (ha : s.ackValid = true) (hh : s.sphase ≠ SPhase.halt)
    (hsave : exec .seqCSaveAck s = .next t) (hout : t.out = s.out ++ [.snapImage img, .snapReport .saved]) :
    img = captureImage s := by
  rw [exec_seqCSaveAck_finishes ha hh, finishSave_eq] at hsave
  cases hsave
  simpa using hout.symm

/-- Settles O18: the image holds the capture of a state whose ratio is exact, so the load of O14 applies it, and a canonical
device store is its own canonical form. -/
theorem snapshotRoundTrip : Obligations.SnapshotRoundTrip := by
  rintro s t u img ha hh ⟨hratio, hquota⟩ ⟨-, hwf⟩ hsave hout hua huh hregion hcur
  obtain rfl := emitted_eq_captureImage ha hh hsave hout
  have same : u.divNum = s.divNum := congrArg Config.divNum hregion
  rw [← same] at hratio hquota
  refine ⟨_, loadCompletes u _ (snapEncode (capture s)) (capture s) hua huh hcur rfl rfl hratio hquota, rfl, ?_⟩
  show { capture s with dev := devNorm s.dev } = capture s
  rw [devNorm_of_wf s.dev hwf]
  rfl

/-! ## O19: what the next scheduler step depends on -/

/-- The engine of `s` in the rest of the block of `u`: what a snapshot, the configuration and the scheduler's position leave
out (45_snapshot R265). -/
def State.withRest (s u : State) : State :=
  { s with
    started := u.started, fault := u.fault, evq := u.evq, cphase := u.cphase, curEv := u.curEv, ackValid := u.ackValid
    ackVal := u.ackVal, showFps := u.showFps, evIllegal := u.evIllegal, hostRefused := u.hostRefused
    consFail := u.consFail, ctlStatus := u.ctlStatus, snapStatus := u.snapStatus, out := u.out, ctlRdata := u.ctlRdata
    busRdata := u.busRdata, busReq := u.busReq, hostPort := u.hostPort, turn := u.turn, tick := u.tick }

@[simp] theorem withRest_plat (s u : State) : (s.withRest u).plat = s.plat := rfl
@[simp] theorem withRest_running (s u : State) : (s.withRest u).running = s.running := rfl
@[simp] theorem withRest_paused (s u : State) : (s.withRest u).paused = s.paused := rfl
@[simp] theorem withRest_pwaitRet (s u : State) : (s.withRest u).pwaitRet = s.pwaitRet := rfl
@[simp] theorem withRest_pq (s u : State) : (s.withRest u).pq = s.pq := rfl

/-- Two blocks have the same engine when they differ in the rest alone. -/
theorem sameEngine_iff {s u : State} : SameEngine s u ↔ s.withRest u = u := by
  constructor
  · rintro ⟨record, ⟨hregion, hslc, hcpu, hppu, hplat⟩, ⟨hrun, hsphase, hret, hpaused, hpq⟩⟩
    simp only [capture, SnapRecord.mk.injEq] at record
    simp only [State.withRest, *]
  · intro h
    rw [← h]
    exact ⟨rfl, ⟨rfl, rfl, rfl, rfl, rfl⟩, ⟨rfl, rfl, rfl, rfl, rfl⟩⟩

/-- Two blocks with the same engine are one engine in two blocks, so that a test of the engine has one answer. -/
theorem SameEngine.exists_rest {s u : State} (h : SameEngine s u) : ∃ rest, u = s.withRest rest :=
  ⟨u, (sameEngine_iff.1 h).symm⟩

section
variable {s u : State}

theorem SameEngine.devRead (h : SameEngine s u) (d : Byte) (sp : Space) (addr : Addr) :
    (devRead d sp addr s).1 = (devRead d sp addr u).1 ∧
      SameEngine (devRead d sp addr s).2 (devRead d sp addr u).2 := by
  obtain ⟨rest, rfl⟩ := h.exists_rest
  unfold Machine.devRead
  rw [withRest_plat]
  cases s.plat.kindOf d <;> exact ⟨rfl, sameEngine_iff.2 rfl⟩

theorem SameEngine.devWrite (h : SameEngine s u) (d : Byte) (sp : Space) (addr : Addr) (v : Byte) :
    SameEngine (devWrite d sp addr v s) (devWrite d sp addr v u) := by
  obtain ⟨rest, rfl⟩ := h.exists_rest
  unfold Machine.devWrite
  rw [withRest_plat]
  cases s.plat.kindOf d <;> exact sameEngine_iff.2 rfl

theorem SameEngine.setOpenBus (h : SameEngine s u) (sp : Space) {v w : Byte} (hv : v = w) :
    SameEngine (s.setOpenBus sp v) (u.setOpenBus sp w) := by
  obtain ⟨rest, rfl⟩ := h.exists_rest
  subst hv
  cases sp <;> exact sameEngine_iff.2 rfl

theorem SameEngine.openBus (h : SameEngine s u) (sp : Space) : s.openBus sp = u.openBus sp := by
  obtain ⟨rest, rfl⟩ := h.exists_rest
  cases sp <;> rfl

theorem SameEngine.lookup (h : SameEngine s u) (sp : Space) (addr : Addr) : s.lookup sp addr = u.lookup sp addr := by
  obtain ⟨rest, rfl⟩ := h.exists_rest
  cases sp <;> rfl

theorem SameEngine.memRead (h : SameEngine s u) (sp : Space) (addr : Addr) :
    (memRead sp addr s).1 = (memRead sp addr u).1 ∧ SameEngine (memRead sp addr s).2 (memRead sp addr u).2 := by
  unfold Machine.memRead
  rw [← h.lookup]
  cases s.lookup sp addr with
  | none => exact ⟨h.openBus sp, h⟩
  | some d =>
    obtain ⟨data, after⟩ := h.devRead d sp addr
    exact ⟨data, after.setOpenBus sp data⟩

theorem SameEngine.memWrite (h : SameEngine s u) (sp : Space) (addr : Addr) (v : Byte) :
    SameEngine (memWrite sp addr v s) (memWrite sp addr v u) := by
  unfold Machine.memWrite
  rw [← h.lookup]
  cases s.lookup sp addr with
  | none => exact h.setOpenBus sp rfl
  | some d => exact (h.devWrite d sp addr v).setOpenBus sp rfl

/-- A primitive call reads the same data, so it takes the same transactions and returns the same result (40_bus R136). -/
theorem SameEngine.runBus {α : Type} (h : SameEngine s u) (sp : Space) (p : BusProg α) :
    (runBus sp p s).1 = (runBus sp p u).1 ∧ SameEngine (runBus sp p s).2 (runBus sp p u).2 := by
  induction p generalizing s u with
  | done a => exact ⟨rfl, h⟩
  | read addr k ih =>
    obtain ⟨data, after⟩ := h.memRead sp addr
    simp only [Machine.runBus, ← data]
    exact ih _ after
  | write addr v k ih => exact ih (h.memWrite sp addr v)

/-! ### The operations of the scheduler -/

theorem SameEngine.cpuReturned (h : SameEngine s u) {r q : CpuResult} (hr : r = q) :
    SameEngine (cpuReturned r s) (cpuReturned q u) := by
  obtain ⟨rest, rfl⟩ := h.exists_rest
  subst hr
  unfold Machine.cpuReturned
  cases r.err <;> exact sameEngine_iff.2 rfl

theorem SameEngine.cpuPhase (h : SameEngine s u) : SameEngine (cpuPhase s) (cpuPhase u) := by
  obtain ⟨rest, rfl⟩ := h.exists_rest
  obtain ⟨result, after⟩ := h.runBus .cpu (Config.cpuStep s.cpu s.nmiLatch s.irqLine)
  exact after.cpuReturned result

theorem SameEngine.ppuReturned (h : SameEngine s u) (sl : BitVec 16) {r q : PpuResult} (hr : r = q) :
    SameEngine (ppuReturned sl r s) (ppuReturned sl q u) := by
  obtain ⟨rest, rfl⟩ := h.exists_rest
  subst hr
  simp only [ppuReturned_eq]
  exact sameEngine_iff.2 rfl

theorem SameEngine.ppuCycle (h : SameEngine s u) : SameEngine (ppuCycle s) (ppuCycle u) := by
  obtain ⟨rest, rfl⟩ := h.exists_rest
  obtain ⟨result, after⟩ := h.runBus .ppu (Config.ppuStep s.ppu)
  exact after.ppuReturned s.ppu.scanline result

theorem SameEngine.applyPause (h : SameEngine s u) (k : PauseKind) (a : Bool) (c : Byte) :
    SameEngine (applyPause k a c s) (applyPause k a c u) := by
  obtain ⟨rest, rfl⟩ := h.exists_rest
  simp only [applyPause_eq]
  split_ifs <;> exact sameEngine_iff.2 rfl

theorem SameEngine.onPauseWord (h : SameEngine s u) (q : BitVec 16) : SameEngine (onPauseWord q s) (onPauseWord q u) := by
  unfold Machine.onPauseWord
  split
  · exact h.applyPause .toggle _ _
  · exact h.applyPause .pause _ _
  · exact h.applyPause .unpause _ _
  · exact h
  · exact h

theorem SameEngine.takePause (h : SameEngine s u) : SameEngine (takePause s) (takePause u) := by
  obtain ⟨rest, rfl⟩ := h.exists_rest
  unfold Machine.takePause
  rw [withRest_pq]
  cases s.pq with
  | nil => exact h
  | cons q pq =>
    have popped : SameEngine { s with pq := pq } { s.withRest rest with pq := pq } := sameEngine_iff.2 rfl
    exact popped.onPauseWord q

theorem SameEngine.checkedPause (h : SameEngine s u) : SameEngine (checkedPause s) (checkedPause u) := by
  obtain ⟨rest, rfl⟩ := h.exists_rest
  unfold Machine.checkedPause
  rw [withRest_paused]
  split <;> exact sameEngine_iff.2 rfl

theorem SameEngine.waitedPause (h : SameEngine s u) : SameEngine (waitedPause s) (waitedPause u) := by
  obtain ⟨rest, rfl⟩ := h.exists_rest
  unfold Machine.waitedPause
  rw [withRest_running, withRest_paused, withRest_pwaitRet]
  split_ifs <;> exact sameEngine_iff.2 rfl

end

/-! ### The steps -/

/-- `i` takes `s` and `u` to blocks with the same engine and appends the same events to EVQ. -/
def StepsAlike (i : Instr) (s u : State) : Prop :=
  ∃ t v pushed, exec i s = .next t ∧ exec i u = .next v ∧ SameEngine t v ∧ t.evq = s.evq ++ pushed ∧
    v.evq = u.evq ++ pushed

section
variable {i : Instr} {s u : State}

/-- A step that pushes no event. -/
theorem StepsAlike.of_quiet {t v : State} (ht : exec i s = .next t) (hv : exec i u = .next v) (h : SameEngine t v)
    (hts : t.evq = s.evq) (hvu : v.evq = u.evq) : StepsAlike i s u :=
  ⟨t, v, [], ht, hv, h, by simp [hts], by simp [hvu]⟩

theorem SameEngine.move (h : SameEngine s u) (p : BitVec 4) :
    SameEngine { s with sphase := p } { u with sphase := p } := by
  obtain ⟨rest, rfl⟩ := h.exists_rest
  exact sameEngine_iff.2 rfl

/-- A step that moves the sequencer and does nothing else. -/
theorem SameEngine.moves (h : SameEngine s u) (p : BitVec 4) (ht : exec i s = .next { s with sphase := p })
    (hv : exec i u = .next { u with sphase := p }) : StepsAlike i s u :=
  .of_quiet ht hv (h.move p) rfl rfl

theorem cpuPhase_evq (s : State) : (cpuPhase s).evq = s.evq := by
  rw [← runBus_evq .cpu (Config.cpuStep s.cpu s.nmiLatch s.irqLine) s]
  unfold cpuPhase cpuReturned
  dsimp only
  split <;> rfl

theorem SameEngine.seqTop (h : SameEngine s u) : StepsAlike .seqTop s u := by
  have phase := h.cpuPhase
  obtain ⟨rest, rfl⟩ := h.exists_rest
  rcases execSeqTop_cases s with ⟨hr, -⟩ | ⟨hr, hq, -⟩ | ⟨hr, hq, hd, -⟩ | ⟨hr, hq, hd, -⟩
  · exact h.moves _ (exec_seqTop_of_quit hr) (exec_seqTop_of_quit hr)
  · exact h.moves _ (exec_seqTop_of_owed hr hq) (exec_seqTop_of_owed hr hq)
  · exact h.moves _ (exec_seqTop_of_pending hr hq hd) (exec_seqTop_of_pending hr hq hd)
  · exact .of_quiet (exec_seqTop_of_settled hr hq hd) (exec_seqTop_of_settled hr hq hd) phase (cpuPhase_evq _)
      (cpuPhase_evq _)

/-- A frame or a sample always has room on an unbounded EVQ. -/
theorem mayPushEvent_of_unbounded (hunb : s.plat.evqDepth = none) : s.mayPushEvent = true :=
  (mayPushEvent_iff s).2 (.inr (by simp only [State.evqRoom, hunb, roomFor]))

/-- The event of a PPU cycle is the frame it completed, so both blocks push the same (42_scheduler R173). -/
theorem SameEngine.ppuCycle_pushes (h : SameEngine s u) : ∃ pushed,
    (Machine.ppuCycle s).evq = s.evq ++ pushed ∧ (Machine.ppuCycle u).evq = u.evq ++ pushed := by
  obtain ⟨rest, rfl⟩ := h.exists_rest
  obtain ⟨result, -⟩ := h.runBus .ppu (Config.ppuStep s.ppu)
  refine ⟨_, congrArg State.evq (ppuCycle_eq s), ?_⟩
  rw [ppuCycle_eq, result]
  rfl

theorem SameEngine.seqPpu (h : SameEngine s u) (hunb : s.plat.evqDepth = none) : StepsAlike .seqPpu s u := by
  have cycle := h.ppuCycle
  obtain ⟨pushed, hs, hu⟩ := h.ppuCycle_pushes
  obtain ⟨rest, rfl⟩ := h.exists_rest
  rcases Nat.lt_or_ge s.quota.toNat 5 with hq | hq
  · exact h.moves _ (exec_seqPpu_of_paid hq) (exec_seqPpu_of_paid hq)
  · exact ⟨_, _, pushed, exec_seqPpu_of_owed hq (mayPushEvent_of_unbounded hunb),
      exec_seqPpu_of_owed hq (mayPushEvent_of_unbounded hunb), cycle, hs, hu⟩

/-- The sample is made of `cpu_state` alone (42_scheduler R174). -/
theorem SameEngine.seqDrain (h : SameEngine s u) (hunb : s.plat.evqDepth = none) : StepsAlike .seqDrain s u := by
  obtain ⟨rest, rfl⟩ := h.exists_rest
  by_cases hd : s.drainPending = 0
  · exact h.moves _ (exec_seqDrain_of_drained hd) (exec_seqDrain_of_drained hd)
  · have hs := exec_seqDrain_of_pending hd (mayPushEvent_of_unbounded hunb)
    have hu := exec_seqDrain_of_pending (s := s.withRest rest) hd (mayPushEvent_of_unbounded hunb)
    rw [sampleReturned_eq] at hs hu
    exact ⟨_, _, sampleEvents (Config.apuSample s.cpu) s, hs, hu, sameEngine_iff.2 rfl, rfl, rfl⟩

theorem takePause_evq (s : State) : (takePause s).evq = s.evq := by rw [takePause_eq]

theorem checkedPause_evq (s : State) : (checkedPause s).evq = s.evq := by
  unfold checkedPause
  split <;> rfl

theorem waitedPause_evq (s : State) : (waitedPause s).evq = s.evq := by
  unfold waitedPause
  split_ifs <;> rfl

theorem SameEngine.seqPcheck (h : SameEngine s u) : StepsAlike .seqPcheck s u :=
  .of_quiet rfl rfl h.takePause.checkedPause ((checkedPause_evq _).trans (takePause_evq s))
    ((checkedPause_evq _).trans (takePause_evq u))

theorem SameEngine.seqPwait (h : SameEngine s u) : StepsAlike .seqPwait s u := by
  have after := h.takePause.waitedPause
  obtain ⟨rest, rfl⟩ := h.exists_rest
  rcases execSeqPwait_cases s with ⟨hp, hr, -⟩ | ⟨hw, -⟩
  · exact .of_quiet (exec_seqPwait_of_empty hp hr) (exec_seqPwait_of_empty hp hr) h rfl rfl
  · exact .of_quiet (exec_seqPwait_of_waiting hw) (exec_seqPwait_of_waiting hw) after
      ((waitedPause_evq _).trans (takePause_evq _)) ((waitedPause_evq _).trans (takePause_evq _))

theorem SameEngine.seqExitchk (h : SameEngine s u) : StepsAlike .seqExitchk s u := by
  obtain ⟨rest, rfl⟩ := h.exists_rest
  exact h.moves _ rfl rfl

end

/-- Settles O19: each sequencer state tests and writes the engine alone, and the frame or sample it pushes is read off it. -/
theorem snapshotDeterminesRun : Obligations.SnapshotDeterminesRun := by
  rintro s u i h hunb (rfl | rfl | rfl | rfl | rfl | rfl)
  · exact h.seqTop
  · exact h.seqPpu hunb
  · exact h.seqDrain hunb
  · exact h.seqPcheck
  · exact h.seqPwait
  · exact h.seqExitchk

end Sys2Proof.Machine

/-!
The lifecycle commands (46_lifecycle R280-R285). Each command's answer where it is refused and where it is accepted, said once
of `State.busy` (O32), and a reset of the device store as `DevicesReset`, so that a second RESET finds its fields clear (O34).
-/
namespace Sys2Proof.Machine

section
variable {s : State}

/-- The configuration commands are BUSY once the block has started or left IDLE (46_lifecycle R280-R282). -/
theorem busy_iff : s.busy = true ↔ s.sphase ≠ SPhase.idle ∨ s.started = true := by
  simp [State.busy]

theorem not_busy_of_idle (hp : s.sphase = SPhase.idle) (hs : s.started = false) : ¬s.busy = true :=
  Bool.eq_false_iff.1 ((busy_false_iff s).2 ⟨hp, hs⟩)

/-! ## The commands, refused and accepted -/

theorem exec_ctlConfig_of_busy (region : Region) (hasSlc : Bool) (hb : s.busy = true) :
    exec (.ctlConfig region hasSlc) s = .next (s.setCtl .busy) := congrArg _ (if_pos hb)

theorem exec_ctlConfig_of_not_busy (region : Region) (hasSlc : Bool) (hb : ¬s.busy = true) :
    exec (.ctlConfig region hasSlc) s = .next { s with region := region, hasSlc := hasSlc, ctlStatus := .ok } :=
  congrArg _ (if_neg hb)

theorem exec_ctlReset_of_busy (hb : s.busy = true) : exec .ctlReset s = .next (s.setCtl .busy) := congrArg _ (if_pos hb)

theorem exec_ctlReset_of_not_busy (hb : ¬s.busy = true) : exec .ctlReset s = .next ((doReset s).setCtl .ok) :=
  congrArg _ (if_neg hb)

theorem exec_ctlStart_of_busy (hb : s.busy = true) : exec .ctlStart s = .next (s.setCtl .busy) := congrArg _ (if_pos hb)

theorem exec_ctlStart_of_consFail (hb : ¬s.busy = true) (hc : s.consFail = true) :
    exec .ctlStart s = .next (s.setCtl .notRunnable) := congrArg _ ((if_neg hb).trans (if_pos hc))

theorem exec_ctlStart_of_runnable (hb : ¬s.busy = true) (hc : s.consFail = false) :
    exec .ctlStart s = .next { doReset { s with mapper := Config.batteryLoad s.mapper } with
      running := true, started := true, sphase := SPhase.top, cphase := CPhase.fetch, ctlStatus := .ok } :=
  congrArg _ ((if_neg hb).trans (if_neg (Bool.eq_false_iff.1 hc)))

theorem exec_ctlSinkFatal_of_quit (hr : s.running = false) : exec .ctlSinkFatal s = .next (s.setCtl .busy) :=
  congrArg _ (if_neg (Bool.eq_false_iff.1 hr))

theorem exec_ctlSinkFatal_of_running (hr : s.running = true) :
    exec .ctlSinkFatal s = .next ((fatalEntry .sinkFailure s).setCtl .ok) := congrArg _ (if_pos hr)

end

/-- A reset leaves every device as it was but the CPU's own (10_state R53). -/
theorem devicesReset_resetDevices (s : State) : DevicesReset s (resetDevices s.plat s.cpu s.dev) :=
  ⟨fun k hk => devGet_resetDevices_other s.plat s.cpu s.dev k hk, fun hwf =>
    ⟨resetDevices_wf s.plat s.cpu s.dev hwf, fun d hd => devGet_resetDevices_own s.plat s.cpu s.dev d hwf hd⟩⟩

/-- Settles O34: a reset starts nothing, so the second is accepted too, and what it clears is clear already. -/
theorem resetTwice : Obligations.ResetTwice := by
  intro s hp hs
  have first : exec .ctlReset s = .next ((doReset s).setCtl .ok) := exec_ctlReset_of_not_busy (not_busy_of_idle hp hs)
  have second := exec_ctlReset_of_not_busy (s := (doReset s).setCtl .ok) (not_busy_of_idle hp hs)
  exact ⟨_, _, first, second, devicesReset_resetDevices s, devicesReset_resetDevices _, rfl⟩

/-- Settles O32: each clause is one branch of a command; the battery load of START touches nothing a reset reads. -/
theorem lifecycleCommands : Obligations.LifecycleCommands := by
  intro s region hasSlc
  refine ⟨fun hb => ?refused, fun hp hs => ?accepted, exec_ctlSinkFatal_of_quit, exec_ctlSinkFatal_of_running⟩
  case refused =>
    have busy : s.busy = true := busy_iff.2 hb
    rintro i (rfl | rfl | rfl)
    · exact exec_ctlConfig_of_busy region hasSlc busy
    · exact exec_ctlReset_of_busy busy
    · exact exec_ctlStart_of_busy busy
  case accepted =>
    have idle : ¬s.busy = true := not_busy_of_idle hp hs
    have devices : DevicesReset s (resetDevices s.plat s.cpu s.dev) := devicesReset_resetDevices s
    exact ⟨exec_ctlConfig_of_not_busy region hasSlc idle, ⟨_, devices, exec_ctlReset_of_not_busy idle⟩,
      exec_ctlStart_of_consFail idle, fun hc => ⟨_, devices, exec_ctlStart_of_runnable idle hc⟩⟩

end Sys2Proof.Machine

/-!
Quit latency (70_reset_and_hazards R345). Once RUNNING is 0 no step pushes an event or waits for room, so the way to HALT is a
ladder, climbed from its end: HALT stands still, TOP, PWAIT and EXITCHK are one step from it, PCHECK two, DRAIN three and the
drain, PPU four, the drain and the phase. Each rung holds with any number of steps to spare (O31).
-/
namespace Sys2Proof.Machine

/-! ## A quitting scheduler's steps -/

theorem frameEvents_of_quit {s : State} (hr : s.running = false) (fb : Option (Nat → Nat → Pixel)) :
    frameEvents fb s = [] := by
  cases fb <;> simp [frameEvents, hr]

theorem sampleEvents_of_quit {s : State} (hr : s.running = false) (r : ApuResult) : sampleEvents r s = [] := by
  simp [sampleEvents, hr]

/-- A PPU cycle of a quitting scheduler pays for itself, pushes no frame, and stays in PPU or pauses (42_scheduler R173, R179). -/
theorem ppuCycle_of_quit {s : State} (hr : s.running = false) :
    (ppuCycle s).running = false ∧ (ppuCycle s).quota = s.quota - 5 ∧ (ppuCycle s).drainPending = s.drainPending ∧
      (ppuCycle s).evq = s.evq ∧ ((ppuCycle s).sphase = SPhase.pwait ∨ (ppuCycle s).sphase = s.sphase) := by
  rw [ppuCycle_eq]
  refine ⟨hr, rfl, rfl, ?_, ite_eq_or_eq _ _ _⟩
  dsimp only
  rw [frameEvents_of_quit hr, List.append_nil]

theorem checkedPause_running (s : State) : (checkedPause s).running = s.running := by
  unfold checkedPause
  split <;> rfl

theorem waitedPause_of_quit {s : State} (hr : s.running = false) : waitedPause s = { s with sphase := SPhase.halt } :=
  if_pos hr

/-! ## O31: the ladder to HALT -/

/-- `n` scheduler steps from `s` end in HALT and push no event. -/
def HaltsIn (n : Nat) (s : State) : Prop :=
  ∃ t, schedulerRun n s = .next t ∧ t.sphase = SPhase.halt ∧ t.evq = s.evq

section
variable {s t : State} {i : Instr} {n : Nat}

/-- One step that pushes no event, then the rest. -/
theorem HaltsIn.of_step (hd : decodeSphase s.sphase = .instr i) (he : exec i s = .next t) (hq : t.evq = s.evq)
    (h : HaltsIn n t) : HaltsIn (n + 1) s := by
  obtain ⟨u, run, halt, evq⟩ := h
  refine ⟨u, ?_, halt, evq.trans hq⟩
  simpa only [schedulerRun, hd, he] using run

/-- Nothing leaves HALT (42_scheduler R178). -/
theorem haltsIn_of_halt (hp : s.sphase = SPhase.halt) (n : Nat) : HaltsIn n s := by
  induction n with
  | zero => exact ⟨s, rfl, hp, rfl⟩
  | succ n ih => exact .of_step (by rw [hp]; rfl) rfl rfl ih

/-- TOP, PWAIT and EXITCHK see RUNNING clear and move to HALT (42_scheduler R172, R176, R177). -/
theorem haltsIn_of_lastMove (hr : s.running = false)
    (hp : s.sphase = SPhase.top ∨ s.sphase = SPhase.pwait ∨ s.sphase = SPhase.exitchk) (n : Nat) : HaltsIn (n + 1) s := by
  rcases hp with hp | hp | hp
  · exact .of_step (by rw [hp]; rfl) (exec_seqTop_of_quit hr) rfl (haltsIn_of_halt rfl n)
  · have wait := exec_seqPwait_of_waiting (.inr hr)
    rw [waitedPause_of_quit ((takePause_running s).trans hr)] at wait
    exact .of_step (by rw [hp]; rfl) wait (takePause_evq s) (haltsIn_of_halt rfl n)
  · exact .of_step (by rw [hp]; rfl) (exec_seqExitchk_of_quit hr) rfl (haltsIn_of_halt rfl n)

/-- PCHECK takes a pause word, if one waits, and moves to PWAIT or EXITCHK (42_scheduler R175). -/
theorem haltsIn_of_pcheck (hr : s.running = false) (hp : s.sphase = SPhase.pcheck) (n : Nat) : HaltsIn (n + 2) s := by
  have running : (checkedPause (takePause s)).running = false := by rw [checkedPause_running, takePause_running, hr]
  have evq : (checkedPause (takePause s)).evq = s.evq := by rw [checkedPause_evq, takePause_evq]
  have moved : (checkedPause (takePause s)).sphase = SPhase.pwait ∨ (checkedPause (takePause s)).sphase = SPhase.exitchk := by
    rw [checkedPause_sphase]
    exact ite_eq_or_eq _ _ _
  exact .of_step (by rw [hp]; rfl) rfl evq (haltsIn_of_lastMove running (.inr moved) n)

theorem haltsIn_of_drained (hr : s.running = false) (hp : s.sphase = SPhase.drain) (hd : s.drainPending = 0) (n : Nat) :
    HaltsIn (n + 3) s := by
  have checks := haltsIn_of_pcheck (s := { s with sphase := SPhase.pcheck }) hr rfl n
  exact .of_step (by rw [hp]; rfl) (exec_seqDrain_of_drained hd) rfl checks

/-- DRAIN discards the samples that are left, one a step (42_scheduler R174, R179). -/
theorem haltsIn_of_drain (hr : s.running = false) (hp : s.sphase = SPhase.drain) (hn : s.drainPending.toNat ≤ n) :
    HaltsIn (n + 3) s := by
  induction n generalizing s with
  | zero => exact haltsIn_of_drained hr hp (BitVec.eq_of_toNat_eq (Nat.le_zero.1 hn)) 0
  | succ n ih =>
    by_cases hd : s.drainPending = 0
    · exact haltsIn_of_drained hr hp hd (n + 1)
    · have slot := exec_seqDrain_of_pending hd ((mayPushEvent_iff s).2 (.inl hr))
      rw [sampleReturned_eq, sampleEvents_of_quit hr, List.append_nil] at slot
      exact .of_step (by rw [hp]; rfl) slot rfl (ih hr hp (by dsimp only; bv_omega))

theorem haltsIn_of_paid (hr : s.running = false) (hp : s.sphase = SPhase.ppu) (hq : s.quota.toNat < 5)
    (hn : s.drainPending.toNat ≤ n) : HaltsIn (n + 4) s := by
  have drains := haltsIn_of_drain (s := { s with sphase := SPhase.drain }) hr rfl hn
  exact .of_step (by rw [hp]; rfl) (exec_seqPpu_of_paid hq) rfl drains

/-- PPU runs the cycles that are owed, one a step, unless the step mode pauses it in PWAIT (42_scheduler R173, R179). -/
theorem haltsIn_of_ppu (hr : s.running = false) (hp : s.sphase = SPhase.ppu)
    (hn : s.quota.toNat / 5 + s.drainPending.toNat ≤ n) : HaltsIn (n + 4) s := by
  induction n generalizing s with
  | zero => exact haltsIn_of_paid hr hp (by omega) (by omega)
  | succ n ih =>
    rcases Nat.lt_or_ge s.quota.toNat 5 with hq | hq
    · exact haltsIn_of_paid hr hp hq (by omega)
    · obtain ⟨running, quota, drain, evq, moved⟩ := ppuCycle_of_quit hr
      have cycle := exec_seqPpu_of_owed hq ((mayPushEvent_iff s).2 (.inl hr))
      refine .of_step (by rw [hp]; rfl) cycle evq ?_
      rcases moved with pauses | stays
      · exact haltsIn_of_lastMove running (.inr (.inl pauses)) (n + 3)
      · refine ih running (stays.trans hp) ?_
        rw [quota, drain, toNat_payCycle hq]
        omega

end

/-- The phases of a block that has started. -/
theorem sphase_cases_of_started {p : BitVec 4} (h0 : p ≠ 0x0) (h7 : p.toNat ≤ 7) :
    (p = SPhase.top ∨ p = SPhase.pwait ∨ p = SPhase.exitchk) ∨ p = SPhase.ppu ∨ p = SPhase.drain ∨ p = SPhase.pcheck ∨
      p = SPhase.halt := by
  revert p
  decide

/-- Settles O31: each phase stands on its rung, with steps to spare but in PPU. -/
theorem quitHalts : Obligations.QuitHalts := by
  intro s hr h0 h7
  have run : HaltsIn (s.quota.toNat / 5 + s.drainPending.toNat + 4) s := by
    rcases sphase_cases_of_started h0 h7 with hp | hp | hp | hp | hp
    · exact haltsIn_of_lastMove hr hp _
    · exact haltsIn_of_ppu hr hp le_rfl
    · exact haltsIn_of_drain hr hp (by omega)
    · exact haltsIn_of_pcheck hr hp _
    · exact haltsIn_of_halt hp _
  obtain ⟨t, ht, halt, evq⟩ := run
  refine ⟨t, ht, halt, evq, fun hp => ?_⟩
  obtain ⟨u, hu, halt, -⟩ := haltsIn_of_lastMove hr hp 0
  exact ⟨u, hu, halt⟩

end Sys2Proof.Machine
